-- ==== Sys2Proof/Word.lean ====
section
/-! DEFINITION. The words of the machine: a quantity of a width the spec fixes is an unsigned bit vector of that width
(00_scope R7, R8). One of a configured width (a length, a byte index, a count of bytes: `LEN_W` bits; an opaque pin
specification: `PIN_W` bits) is a natural number below 2 to that width (R8, R10); the bound is the decoder's and the
invariant's. -/

namespace Sys2Proof

/-- A data item is a byte (`DATA_W` = 8, R7). -/
abbrev Byte := BitVec 8

/-- A bus index, the handle field of a request (`BUS_W` = 7, R8). -/
abbrev BusIndex := BitVec 7

/-- A 7-bit target address (`A7_W` = 7, R7). -/
abbrev Addr7 := BitVec 7

end Sys2Proof
end

