-- ==== Sys2Proof/Config.lean ====
section
/-! DEFINITION. What an implementation fixes (00_scope R8: the open parameters, taken as an argument) and the free
values (43 R152: answers under no law). No value is chosen here for an open parameter. -/

namespace Sys2Proof

/-- One entry of the descriptor table `DESC[]`: two constants fixed at compile time, of which the spec prints no value
(R30). -/
structure Descriptor where
  base : Nat
  periph : Nat
  deriving DecidableEq, Repr, Inhabited

/-- `POLL_LIMIT` (R8, R9): `INF`, or a positive integer. `finite last` is the limit `last + 1`, so that the domain
"positive integer" is the type's own. -/
inductive PollLimit where
  | inf
  | finite (last : Nat)
  deriving DecidableEq, Repr, Inhabited

/-- The widths R8 leaves to the configuration, `LEN_W` and `PIN_W`: each is given by the number of its field's top bit, so
that the domain "positive integer" is the type's own. -/
structure Widths where
  lastLenBit : Nat
  lastPinBit : Nat
  deriving DecidableEq, Repr, Inhabited

/-- `LEN_W`, the width of the length field of a request (R8). -/
def Widths.lenW (w : Widths) : Nat := w.lastLenBit + 1

/-- `PIN_W`, the width of a pin specification (R8). -/
def Widths.pinW (w : Widths) : Nat := w.lastPinBit + 1

/-- `RX_MAX = 2^LEN_W - 1`, the largest length a request can express (R8). -/
def Widths.rxMax (w : Widths) : Nat := 2 ^ w.lenW - 1

/-- The defaults `LEN_W = 8` and `PIN_W = 8` (R8), the widths spec/opcode_table.json is written for. -/
def Widths.standard : Widths := { lastLenBit := 7, lastPinBit := 7 }

/-- The open parameters of R8. `lastBus` is `NUM_BUSES - 1`, so that `NUM_BUSES` is 1..128 by type; `desc` is the table
`DESC[]`, of which only the entries below `NUM_BUSES` exist (nothing reads another). -/
structure Config where
  lastBus : Fin 128
  desc : Vector Descriptor 128
  pollLimit : PollLimit
  widths : Widths
  deriving DecidableEq, Repr, Inhabited

/-- `NUM_BUSES`, the number of physical controllers (R8). -/
def Config.numBuses (c : Config) : Nat := c.lastBus.val + 1

/-- `DESC[h]` (R30). -/
def Config.descriptor (c : Config) (h : BusIndex) : Descriptor := c.desc[h.toNat]'h.isLt

/-- The limit as a number, `none` for `INF` (R9). -/
def PollLimit.samples : PollLimit → Option Nat
  | .inf => none
  | .finite last => some (last + 1)

/-- The platform the machine is on at reset: OPEN, no body (log 1). Its widths are not used: R8 gives them defaults. -/
opaque Config.platform : Config

/-- FREE VALUE (log 4): the answer of the `n`-th draw where no scripted `POLL` answer stands (R152). -/
opaque Config.freeBusy : Nat → Bool

/-- FREE VALUE (log 4): the answer of the `n`-th draw where no scripted `GET` answer stands (R152). -/
opaque Config.freeByte : Nat → Byte

/-- FREE VALUE (log 4): the frequency the `n`-th draw answers where no scripted `SYSCLK` answer stands (R94). -/
opaque Config.freeClock : Nat → Nat

/-- Largest accepted `SEND` length, `TX_MAX` (R7). -/
def Config.txMax : Nat := 30

/-- Capacity of the scratch buffer, `BUF_CAP` (R7). -/
def Config.bufCap : Nat := 31

/-- `RX_MAX` of a configuration (R8). -/
def Config.rxMax (c : Config) : Nat := c.widths.rxMax

end Sys2Proof
end

