-- ==== Sys2Proof/Syntax.lean ====
section
/-! DEFINITION. The fifteen operations of spec/opcode_table.json, and the words that carry them (30_encoding R70). -/

namespace Sys2Proof

/-- The command kinds are exactly these eight (R79), in the document's order. -/
inductive CmdKind where
  | singleSend
  | burstStart
  | burstContinue
  | burstFinish
  | singleReceive
  | burstReceiveStart
  | burstReceiveContinue
  | burstReceiveFinish
  deriving DecidableEq, Repr

/-- One constructor per row of the opcode table: three host operations and twelve micro-operations. -/
inductive Instr where
  /-- `claim(dataPin, clockPin)`, format K (R81, R90). -/
  | claim (dataPin clockPin : Nat)
  /-- `send(handle, address, bytes)`, format H with `OP = 0` (R72, R100); `len` is the number of bytes (R71). -/
  | send (bus : BusIndex) (addr : BitVec 8) (data : List Byte)
  /-- `receive(handle, address, length)`, format H with `OP = 1` (R72, R120). -/
  | receive (bus : BusIndex) (addr : BitVec 8) (len : Nat)
  /-- `ADDR_SET(a7, isRead)`, class 1 (R78, R141). -/
  | addrSet (a7 : Addr7) (isRead : Bool)
  /-- `PUT(v)`, class 2 (R142). -/
  | put (v : Byte)
  | cmdSingleSend
  | cmdBurstStart
  | cmdBurstContinue
  | cmdBurstFinish
  | cmdSingleReceive
  | cmdBurstReceiveStart
  | cmdBurstReceiveContinue
  | cmdBurstReceiveFinish
  /-- `POLL`, class 4 (R153). -/
  | poll
  /-- `GET`, class 5 (R155). -/
  | get
  deriving DecidableEq, Repr

/-- A request as the host presents it: one atomic value (R71), on the registry's port (format K, R81) or on the
sequencer's (format H and its data bytes, R72, R73). The words have the configuration's widths, `2 * PIN_W` and
`16 + LEN_W` bits (log 11), and are natural numbers (R10), bit 0 the least significant. -/
inductive Request where
  | claim (word : Nat)
  | transfer (header : Nat) (data : List Byte)
  deriving DecidableEq, Repr

/-- Everything that carries an operation: a request, or a micro-operation word on a controller port (R76). The port
tells the formats apart, no bit does (R76, R81). -/
inductive Code where
  | request (r : Request)
  | micro (word : BitVec 12)
  deriving DecidableEq, Repr

end Sys2Proof
end

