-- ==== Sys2Proof/WellFormed.lean ====
section
/-! DEFINITION. Which instructions can be written down at all, in a configuration's widths: the operands of a fixed width
are bounded by their types; a length has to fit the `LEN_W` bits of the field `LEN` (30_encoding R72; 93 U16: a longer one
cannot be expressed), a pin the `PIN_W` bits of its field (R81). -/

namespace Sys2Proof

/-- A request carries a length of at most `RX_MAX`, a claim pins below `2^PIN_W`; everything else is well formed as it
stands. A length the field can express and the operation rejects (R83) is well formed: it has a meaning,
`INVALID_LENGTH`. -/
def Instr.wellFormed (w : Widths) : Instr → Bool
  | .claim dataPin clockPin => decide (dataPin < 2 ^ w.pinW ∧ clockPin < 2 ^ w.pinW)
  | .send _ _ data => decide (data.length ≤ w.rxMax)
  | .receive _ _ len => decide (len ≤ w.rxMax)
  | .addrSet _ _ => true
  | .put _ => true
  | .cmdSingleSend => true
  | .cmdBurstStart => true
  | .cmdBurstContinue => true
  | .cmdBurstFinish => true
  | .cmdSingleReceive => true
  | .cmdBurstReceiveStart => true
  | .cmdBurstReceiveContinue => true
  | .cmdBurstReceiveFinish => true
  | .poll => true
  | .get => true

end Sys2Proof
end

