-- ==== Sys2Proof/Decode.lean ====
section
/-! DEFINITION. Decoding a request or a micro-operation word, total and rejecting by name (30_encoding R72 to R83), the
encoder written from the same tables, and the host's view of the opcode table. -/

namespace Sys2Proof

/-- Why a word carries no operation. -/
inductive DecodeError where
  /-- Format M, class 0x0 or 0x6..0xF (R77, R83). -/
  | unassignedClass
  /-- Format M, a `CMD` payload of 0x08..0xFF (R83). -/
  | unassignedKind
  /-- Format M, a non-zero payload of `POLL` or `GET` (R83). -/
  | nonzeroPayload
  /-- Format H, not exactly `LEN` bytes after a `SEND` header, or any byte after a `RECEIVE` header (R71, R73, log 25). -/
  | dataCount
  /-- Format H or K, a number with bits above the format's width: no word of it (R10, R70). -/
  | wordTooWide
  deriving DecidableEq, Repr

/-- What the decoder answers. -/
inductive Decoded where
  | ok (i : Instr)
  | reject (e : DecodeError)
  deriving DecidableEq, Repr

/-- The kind of a `CMD` payload: its code is its place in the document's list (R79). -/
def CmdKind.ofCode? (payload : Byte) : Option CmdKind :=
  match payload.toNat with
  | 0 => some .singleSend
  | 1 => some .burstStart
  | 2 => some .burstContinue
  | 3 => some .burstFinish
  | 4 => some .singleReceive
  | 5 => some .burstReceiveStart
  | 6 => some .burstReceiveContinue
  | 7 => some .burstReceiveFinish
  | _ => none

/-- The 3-bit code of a kind (R79). -/
def CmdKind.code : CmdKind → BitVec 3
  | .singleSend => 0
  | .burstStart => 1
  | .burstContinue => 2
  | .burstFinish => 3
  | .singleReceive => 4
  | .burstReceiveStart => 5
  | .burstReceiveContinue => 6
  | .burstReceiveFinish => 7

/-- The micro-operation `CMD(kind)` (R143). -/
def CmdKind.instr : CmdKind → Instr
  | .singleSend => .cmdSingleSend
  | .burstStart => .cmdBurstStart
  | .burstContinue => .cmdBurstContinue
  | .burstFinish => .cmdBurstFinish
  | .singleReceive => .cmdSingleReceive
  | .burstReceiveStart => .cmdBurstReceiveStart
  | .burstReceiveContinue => .cmdBurstReceiveContinue
  | .burstReceiveFinish => .cmdBurstReceiveFinish

/-- Format M (R76 to R79): `CLASS` in bits 11:8, `PAYLOAD` in bits 7:0. -/
def decodeMicro (w : BitVec 12) : Decoded :=
  let payload : Byte := w.extractLsb' 0 8
  match (w.extractLsb' 8 4).toNat with
  | 1 => .ok (.addrSet (w.extractLsb' 1 7) (w.getLsbD 0))
  | 2 => .ok (.put payload)
  | 3 =>
    match CmdKind.ofCode? payload with
    | some k => .ok k.instr
    | none => .reject .unassignedKind
  | 4 => if payload = 0 then .ok .poll else .reject .nonzeroPayload
  | 5 => if payload = 0 then .ok .get else .reject .nonzeroPayload
  | _ => .reject .unassignedClass

/-- Format H (R72, R73). `LEN` is the low `LEN_W` bits; above it stand `ADDR` (8 bits), `BUS` (7) and `OP` (1): at
`LEN_W = 8` bits 7:0, 15:8, 22:16 and 23. Then come exactly `LEN` bytes after a `SEND` header and none after a `RECEIVE`
header. -/
def decodeTransfer (w : Widths) (h : Nat) (data : List Byte) : Decoded :=
  let len : Nat := h % 2 ^ w.lenW
  let rest : Nat := h / 2 ^ w.lenW
  let addr : BitVec 8 := BitVec.ofNat 8 rest
  let bus : BusIndex := BitVec.ofNat 7 (rest / 256)
  if 65536 ≤ rest then .reject .wordTooWide
  else if rest / 32768 = 1 then
    if data = [] then .ok (.receive bus addr len) else .reject .dataCount
  else
    if data.length = len then .ok (.send bus addr data) else .reject .dataCount

/-- Format K (R81): every word of `2 * PIN_W` bits on the registry's port is a `CLAIM`, `DATA_PIN` above `CLOCK_PIN`. -/
def decodeClaim (w : Widths) (word : Nat) : Decoded :=
  if word / 2 ^ w.pinW < 2 ^ w.pinW then .ok (.claim (word / 2 ^ w.pinW) (word % 2 ^ w.pinW))
  else .reject .wordTooWide

/-- The decoder: the port a word stands on selects its format (R70, R76, R81), the configuration the widths (R8). -/
def decode (w : Widths) : Code → Decoded
  | .request (.claim word) => decodeClaim w word
  | .request (.transfer h data) => decodeTransfer w h data
  | .micro word => decodeMicro word

/-- A micro-operation word (R76): `{CLASS, PAYLOAD}`. -/
def microWord (cls : BitVec 4) (payload : Byte) : BitVec 12 := cls ++ payload

/-- A request header (R72): `{OP, BUS, ADDR, LEN}`. -/
def headerWord (w : Widths) (op : Bool) (bus : BusIndex) (addr : BitVec 8) (len : Nat) : Nat :=
  ((op.toNat * 128 + bus.toNat) * 256 + addr.toNat) * 2 ^ w.lenW + len

/-- A `CLAIM` word (R81): `{DATA_PIN, CLOCK_PIN}`. -/
def claimWord (w : Widths) (dataPin clockPin : Nat) : Nat := dataPin * 2 ^ w.pinW + clockPin

/-- The payload of `ADDR_SET` (R78): `{A7, isRead}`. -/
def addrPayload (a7 : Addr7) (isRead : Bool) : Byte := a7 ++ BitVec.ofBool isRead

/-- The word of `CMD(kind)` (R77, R79): class 3, payload `{0b00000, KIND}`. -/
def cmdWord (k : CmdKind) : BitVec 12 := microWord 3 (0#5 ++ k.code)

/-- The encoder, from the same tables. -/
def encode (w : Widths) : Instr → Code
  | .claim dataPin clockPin => .request (.claim (claimWord w dataPin clockPin))
  | .send bus addr data => .request (.transfer (headerWord w false bus addr data.length) data)
  | .receive bus addr len => .request (.transfer (headerWord w true bus addr len) [])
  | .addrSet a7 isRead => .micro (microWord 1 (addrPayload a7 isRead))
  | .put v => .micro (microWord 2 v)
  | .cmdSingleSend => .micro (cmdWord .singleSend)
  | .cmdBurstStart => .micro (cmdWord .burstStart)
  | .cmdBurstContinue => .micro (cmdWord .burstContinue)
  | .cmdBurstFinish => .micro (cmdWord .burstFinish)
  | .cmdSingleReceive => .micro (cmdWord .singleReceive)
  | .cmdBurstReceiveStart => .micro (cmdWord .burstReceiveStart)
  | .cmdBurstReceiveContinue => .micro (cmdWord .burstReceiveContinue)
  | .cmdBurstReceiveFinish => .micro (cmdWord .burstReceiveFinish)
  | .poll => .micro (microWord 4 0)
  | .get => .micro (microWord 5 0)

/-- The instruction of an answer of the decoder, if it is one. -/
def Decoded.instr? : Decoded → Option Instr
  | .ok i => some i
  | .reject _ => none

/-- The words behind a row of spec/opcode_table.json whose bits are `w`, at the default widths (log 12). 24 bits: a
header, a `SEND`'s `LEN` data bytes all zero. 12 bits, or 16 once rounded up to whole bytes: a micro-operation word. 16 bits: a `CLAIM` word,
unless it is also an assigned micro-operation word. -/
def tableCode (nbits w : Nat) : Option Code :=
  if nbits = 24 ∧ w < 16777216 then
    some (.request (.transfer w (if w < 8388608 then List.replicate (w % 256) 0 else [])))
  else if (nbits = 12 ∨ nbits = 16) ∧ w < 4096 ∧ (decodeMicro (BitVec.ofNat 12 w)).instr?.isSome then
    some (.micro (BitVec.ofNat 12 w))
  else if nbits = 16 ∧ w < 65536 then
    some (.request (.claim w))
  else none

/-- The host's question "what does your decoder read from the table's word `w`": in the table's own widths. -/
def decodeTableWord (nbits w : Nat) : Option Instr :=
  match tableCode nbits w with
  | some c => (decode .standard c).instr?
  | none => none

end Sys2Proof
end

