-- ==== Sys2Proof/Machine/State.lean ====
section
/-! DEFINITION. The state of the machine as plain data (10_state, 20_memory, 40_claim R94), what it is right after reset
(70 R190), and the reasons a step can stop. -/

namespace Sys2Proof.Machine

/-- A byte space: its written cells, addresses strictly rising. An unlisted address holds no value (R27(e), log 5, 6). -/
abbrev Memory := List Host.Cell

/-- The nine states of `ST` (R22). -/
inductive SeqState where
  | idle
  | sAddr
  | sPut
  | sCmd
  | sPoll
  | rAddr
  | rCmd
  | rPoll
  | rGet
  deriving DecidableEq, Repr

/-- `OP`: the kind of the running transaction (R21). -/
inductive Op where
  | send
  | receive
  deriving DecidableEq, Repr

/-- The status codes by name (R161). -/
inductive Status where
  | ok
  | invalidLength
  | busTimeout
  | resourceExhausted
  deriving DecidableEq, Repr

/-- One event of the trace (R56): a micro-operation with its bus, payload and response, or a collaborator event of a
claim (R94). -/
inductive Event where
  | addrSet (bus : BusIndex) (a7 : Addr7) (isRead : Bool)
  | put (bus : BusIndex) (v : Byte)
  | cmd (bus : BusIndex) (kind : CmdKind)
  | poll (bus : BusIndex) (busy : Bool)
  | get (bus : BusIndex) (v : Byte)
  | clkEn (periph : Nat)
  | pinData (pin : Nat)
  | pinClk (pin : Nat)
  | sysclk (f : Nat)
  | setRate (bus : BusIndex) (f : Nat) (highSpeed : Bool)
  | masterEn (bus : BusIndex)
  deriving DecidableEq, Repr

/-- What the machine has written into the controller of one bus (R35, R94, R141 to R143; log 16), and whether the
controller is known idle (R61; log 8). The busy flag and the data register as read are the controller's own answers, not
here (R152). -/
structure Port where
  /-- the last claim of the bus enabled its clock domain (R94, event 1) -/
  clocked : Bool
  /-- the pins that claim configured (events 2, 3) -/
  dataPin : Option Nat
  clockPin : Option Nat
  /-- the system clock frequency the rate was programmed from, and whether high speed (event 5) -/
  rate : Option (Nat × Bool)
  /-- enabled in master mode (event 6) -/
  master : Bool
  /-- the target address and direction the commands that follow use (R141) -/
  a7 : Addr7
  isRead : Bool
  /-- the byte the next send command transmits (R142) -/
  data : Byte
  /-- the last command issued (R143) -/
  command : Option CmdKind
  /-- a command was issued, or a reset cut a transaction short, and no `POLL` has answered idle since (R61, R201) -/
  unsettled : Bool
  deriving DecidableEq, Repr, Inhabited

/-- The answers still to come from outside (R152; 95's scripts), and the number of free answers drawn (log 4). -/
structure Oracle where
  polls : List Bool
  gets : List Byte
  clocks : List Nat
  draws : Nat
  deriving DecidableEq, Repr

/-- The state of the machine. -/
structure State where
  /-- the configuration, carried as an argument; no step writes it (R8, R37) -/
  cfg : Config
  /-- `ST` (R22) -/
  st : SeqState
  /-- `OP` (R21) -/
  op : Op
  /-- `BUS` (R21) -/
  bus : BusIndex
  /-- `A7` (R21) -/
  a7 : Addr7
  /-- `LEN` (R21), of `LEN_W` bits -/
  len : Nat
  /-- `IDX` (R25), of `LEN_W` bits -/
  idx : Nat
  /-- `PCNT` (R26, log 15) -/
  pcnt : Nat
  /-- `BUF[0..30]` (R27, R50) -/
  buf : Memory
  /-- `STATUS` (R28) -/
  status : Status
  /-- `REMAINING` (R28), of `LEN_W` bits -/
  remaining : Nat
  /-- `DONE` (R28) -/
  done : Bool
  /-- `CLAIMS` (R29) -/
  claims : BitVec 8
  /-- the result word of the last `CLAIM`, on the registry port (R80, R93, log 22) -/
  registryPort : Option (BitVec 16)
  /-- the caller's receive storage `RX` (R36, R51) -/
  rx : Memory
  /-- the controller port of each bus (R52) -/
  ports : Vector Port 128
  /-- the requests the host has still to present, the head first (R34, log 3) -/
  host : List Request
  /-- the reset input: asserted, the next step is the reset event (R190, log 14) -/
  resetLine : Bool
  /-- the outside answers to come (R152, log 4) -/
  oracle : Oracle
  /-- the trace, oldest event first (R36, R56) -/
  trace : List Event
  deriving DecidableEq, Repr

/-- Why the machine stops where the spec says the behaviour is undefined or an access does not exist. -/
inductive Fault where
  /-- Raised by `ADDR_SET`, `PUT`, `CMD.*` and `GET` on a bus that is not known idle (R201, 93 U4: "fault"). Safe: the
  model stops where the hardware goes on in a way the spec does not define. -/
  | busNotKnownIdle
  /-- Raised where `S_PUT` reads a scratch cell that was never staged (R27(e), 93 U9: "fault"). Safe, and unreachable. -/
  | scratchUnwritten
  /-- Raised where `S_PUT` reads outside `BUF[0..30]` (R50, R55: no such cell). Safe, and unreachable. -/
  | scratchOutOfRange
  /-- Raised by `GET` at an index outside `RX[0..LEN-1]` (R51, R55: no such cell). Safe, and unreachable. -/
  | rxOutOfRange
  deriving DecidableEq, Repr

/-- Why the model gives a situation no step. -/
inductive Refusal where
  /-- Raised by `exec` for an instruction without a meaning yet. Safe. -/
  | notModelled (mnemonic : String)
  /-- Raised by `SEND` and `RECEIVE` on a handle that was never claimed (R170, 93 U1: "refuse"). Safe. -/
  | unclaimedHandle
  /-- Raised by a host operation while a transaction runs (R171, 93 U2: held, no step accepts it). Safe: `step` never
  presents one there. -/
  | held
  /-- Raised by a micro-operation other than the one the state machine emits where it stands (R33: "No other transition
  exists"). Safe: `step` never fetches one. -/
  | notEmitted
  /-- Raised by `CMD.*` where `LEN` and `IDX` are outside the domain of frame control (R104, R123). Safe, unreachable. -/
  | frameUndefined
  /-- Raised by a `SEND` or `RECEIVE` of more than `RX_MAX` bytes, which format H cannot express (93 U16: "refuse").
  Safe. -/
  | lengthNotExpressible
  /-- Raised by `step` for a word that carries no operation (R83, 93 U12: "invalid (refuse)"). Safe. -/
  | badEncoding (e : DecodeError)
  deriving DecidableEq, Repr

/-- A controller port at power-on. The spec says "unknown" (R190); nothing set up, zeros (log 7). -/
def Port.powerOn : Port where
  clocked := false
  dataPin := none
  clockPin := none
  rate := none
  master := false
  a7 := 0
  isRead := false
  data := 0
  command := none
  unsettled := false

/-- The machine right after reset (R190), on a given platform. `BUF` and `RX` hold no value (log 5, 6); no answer is
scripted (log 4); the host has nothing to present (log 3). -/
def State.resetOn (c : Config) : State where
  cfg := c
  st := .idle
  op := .send
  bus := 0
  a7 := 0
  len := 0
  idx := 0
  pcnt := 0
  buf := []
  status := .ok
  remaining := 0
  done := false
  claims := 0
  registryPort := none
  rx := []
  ports := Vector.replicate 128 Port.powerOn
  host := []
  resetLine := false
  oracle := { polls := [], gets := [], clocks := [], draws := 0 }
  trace := []

/-- The machine right after reset, on the platform the spec leaves open (log 1), with the widths at the defaults R8 gives
them (log 11). -/
def State.reset : State := State.resetOn { Config.platform with widths := .standard }

end Sys2Proof.Machine
end

