-- ==== Sys2Proof/Machine/Ops.lean ====
section
/-! DEFINITION. The named operations over storage, ports, trace and outside answers; the error completion, which is this
hardware's exception entry (60 R166), and the normal one beside it (R165); the reset event (70 R190). -/

namespace Sys2Proof.Machine

/-- The byte at an address, if one was written. -/
def Memory.read : Memory → Nat → Option Byte
  | [], _ => none
  | c :: m, a => if c.1 = a then some c.2 else Memory.read m a

/-- Write one byte, keeping the addresses strictly rising. -/
def Memory.write : Memory → Nat → Byte → Memory
  | [], a, v => [(a, v)]
  | c :: m, a, v =>
    if a < c.1 then (a, v) :: c :: m
    else if a = c.1 then (a, v) :: m
    else c :: Memory.write m a v

/-- Write a sequence of bytes at consecutive addresses, in order. -/
def Memory.writeFrom : Memory → Nat → List Byte → Memory
  | m, _, [] => m
  | m, a, v :: vs => Memory.writeFrom (m.write a v) (a + 1) vs

/-- The canonical form: addresses strictly rising. No entry can equal what an unlisted address reads as, which is no
value. -/
abbrev Memory.wf (m : Memory) : Prop := m.Pairwise (fun c d => c.1 < d.1)

/-- The controller port of bus `b` (R52). -/
def State.port (s : State) (b : BusIndex) : Port := s.ports[b.toNat]'b.isLt

/-- Replace the port of bus `b`. -/
def State.setPort (s : State) (b : BusIndex) (p : Port) : State := { s with ports := s.ports.set b.toNat p b.isLt }

/-- Append events to the trace, in order (R56). -/
def State.log (s : State) (es : List Event) : State := { s with trace := s.trace ++ es }

/-- `RXWrite(i, v)` (R11, R51). -/
def State.rxWrite (s : State) (i : Nat) (v : Byte) : State := { s with rx := s.rx.write i v }

/-- Staging (R102): byte `i` of the input goes to `BUF[i]`. -/
def State.stage (s : State) (data : List Byte) : State := { s with buf := s.buf.writeFrom 0 data }

/-- `BUF[i]` (R50): 31 cells; a cell never staged has no value (R27(e), 93 U9). -/
def State.bufRead (s : State) (i : Nat) : Host.Outcome Byte Fault Refusal :=
  if i < Config.bufCap then
    match s.buf.read i with
    | some v => .next v
    | none => .fault .scratchUnwritten
  else .fault .scratchOutOfRange

/-- The host's read of its receive storage (R53). -/
def State.rxRead (s : State) (i : Nat) : Option Byte := s.rx.read i

/-- The response of the `POLL` a step emits: a free input of that step (R152). -/
def State.pollAnswer (s : State) : Bool :=
  match s.oracle.polls with
  | [] => Config.freeBusy s.oracle.draws
  | r :: _ => r

/-- The response of the `GET` a step emits (R152). -/
def State.getAnswer (s : State) : Byte :=
  match s.oracle.gets with
  | [] => Config.freeByte s.oracle.draws
  | v :: _ => v

/-- The frequency `SYSCLK` answers (R94, event 4). -/
def State.clockAnswer (s : State) : Nat :=
  match s.oracle.clocks with
  | [] => Config.freeClock s.oracle.draws
  | f :: _ => f

/-- A `POLL` answer has been used. -/
def State.usePoll (s : State) : State :=
  { s with oracle := { s.oracle with polls := s.oracle.polls.tail, draws := s.oracle.draws + 1 } }

/-- A `GET` answer has been used. -/
def State.useGet (s : State) : State :=
  { s with oracle := { s.oracle with gets := s.oracle.gets.tail, draws := s.oracle.draws + 1 } }

/-- A `SYSCLK` answer has been used. -/
def State.useClock (s : State) : State :=
  { s with oracle := { s.oracle with clocks := s.oracle.clocks.tail, draws := s.oracle.draws + 1 } }

/-- The acceptance step consumes the whole request record (R71), whatever it answers. -/
def State.consumeRequest (s : State) : State := { s with host := s.host.tail }

/-- ERROR COMPLETION, `raise E(info)` (R166): the analogue of trap entry. Nothing else is saved or changed. The return is
the acceptance of the next request (R174); there is nothing to restore. -/
def State.raise (s : State) (code : Status) (info : Nat) : State :=
  { s with status := code, remaining := info, done := true, st := .idle }

/-- NORMAL COMPLETION, `complete OK` (R165). -/
def State.completeOk (s : State) : State :=
  { s with status := .ok, remaining := 0, done := true, st := .idle }

/-- A handle `h` is claimed exactly when `h < CLAIMS` (R93). -/
def State.claimed (s : State) (b : BusIndex) : Bool := decide (b.toNat < s.claims.toNat)

/-- The bus is known idle (R61): claimed, and no command is outstanding on it. A freshly claimed bus is known idle by
the boot premise (R196), unless a reset or a timeout left it unsettled (R201, log 8). -/
def State.knownIdle (s : State) (b : BusIndex) : Bool := s.claimed b && !(s.port b).unsettled

/-- Whether the controller of bus `b` is known to have ended its last command. -/
def State.setUnsettled (s : State) (b : BusIndex) (u : Bool) : State :=
  s.setPort b { s.port b with unsettled := u }

/-- THE RESET EVENT (R190 to R192). The sequencer and the registry take their reset values whatever they were doing; the
configuration, the controllers, `RX`, the host and the outside answers are not its business. A transaction that is cut
short leaves its bus not known idle (R191, R201). -/
def State.applyReset (s : State) : State :=
  { s with
    st := .idle
    op := .send
    bus := 0
    a7 := 0
    len := 0
    idx := 0
    pcnt := 0
    buf := []
    status := .ok
    remaining := 0
    done := false
    claims := 0
    registryPort := none
    resetLine := false
    ports := if s.st = .idle then s.ports else (s.setUnsettled s.bus true).ports
    trace := [] }

/-- ENVIRONMENT MOVE, never taken by `step`: the host has restored the controller of bus `b` to idle "by means outside
this spec" (R201, R167, log 2). -/
def State.busRestored (s : State) (b : BusIndex) : State := s.setUnsettled b false

/-- ENVIRONMENT MOVE: the host will present `r` next (R71). -/
def State.present (s : State) (r : Request) : State := { s with host := r :: s.host }

end Sys2Proof.Machine
end

