-- ==== Sys2Proof/Machine/Operands.lean ====
section
/-! DEFINITION. The operand forms: the target address (30 R74), frame control (41 R104, 42 R123), and the
micro-operation the pair (`ST`, `IDX`) names (10 R24, R33). -/

namespace Sys2Proof.Machine

/-- `A7 = ADDR[7:1]`: the low bit of the pre-shifted address is stripped (R74). -/
def targetAddress (addr : BitVec 8) : Addr7 := addr.extractLsb' 1 7

/-- The place of phase `idx` in a transaction of `len` bytes, shared by R104 and R123: single, start, continue or
finish; no place outside `1 ≤ len`, `idx < len`. -/
def framePlace (single start continue_ finish : CmdKind) (len idx : Nat) : Option CmdKind :=
  if idx < len then
    if len = 1 then some single
    else if idx = 0 then some start
    else if idx + 1 < len then some continue_
    else some finish
  else none

/-- `send_kind(LEN, IDX)`, defined for `1 <= LEN <= 30`, `0 <= IDX < LEN` (R104). -/
def sendKind (len idx : Nat) : Option CmdKind :=
  if len ≤ Config.txMax then framePlace .singleSend .burstStart .burstContinue .burstFinish len idx else none

/-- `recv_kind(LEN, IDX)`, defined for `1 <= LEN <= RX_MAX`, `0 <= IDX < LEN` (R123). -/
def recvKind (w : Widths) (len idx : Nat) : Option CmdKind :=
  if len ≤ w.rxMax then
    framePlace .singleReceive .burstReceiveStart .burstReceiveContinue .burstReceiveFinish len idx
  else none

/-- The command of a phase as the micro-operation that issues it. -/
def commandOp (k : Option CmdKind) : Host.Outcome Instr Fault Refusal :=
  match k with
  | some k => .next k.instr
  | none => .refused .frameUndefined

/-- The micro-operation the state machine emits where it stands: `ST` names the primitive, `IDX` the byte phase, and with
`LEN` they fix the command kind (R24, R33). In `IDLE` it emits nothing (R34). -/
def State.namedOp (s : State) : Host.Outcome Instr Fault Refusal :=
  match s.st with
  | .idle => .refused .notEmitted
  | .sAddr => .next (.addrSet s.a7 false)
  | .sPut =>
    match s.bufRead s.idx with
    | .next v => .next (.put v)
    | .fault f => .fault f
    | .refused r => .refused r
  | .sCmd => commandOp (sendKind s.len s.idx)
  | .sPoll => .next .poll
  | .rAddr => .next (.addrSet s.a7 true)
  | .rCmd => commandOp (recvKind s.cfg.widths s.len s.idx)
  | .rPoll => .next .poll
  | .rGet => .next .get

/-- A micro-operation has a step only where the state machine emits it (R33, log 9). -/
def State.emitting (s : State) (i : Instr) (o : Host.Outcome State Fault Refusal) : Host.Outcome State Fault Refusal :=
  match s.namedOp with
  | .next j => if j = i then o else .refused .notEmitted
  | .fault f => .fault f
  | .refused r => .refused r

/-- `ADDR_SET`, `PUT`, `CMD` and `GET` on a bus that is not known idle are behaviour the spec does not define
(R201, 93 U4: a fault). -/
def State.emittingKnownIdle (s : State) (i : Instr) (o : Host.Outcome State Fault Refusal) :
    Host.Outcome State Fault Refusal :=
  s.emitting i (if s.knownIdle s.bus then o else .fault .busNotKnownIdle)

end Sys2Proof.Machine
end

