-- ==== Sys2Proof/Machine/Flags.lean ====
section
/-! DEFINITION. The status bits and their words: codes of `ST` (10 R22) and `STATUS` (60 R161), the result word (30 R80),
`READY` (10 R28), and the two conditions a wait tests (41 R107). -/

namespace Sys2Proof.Machine

/-- The 4-bit codes of `ST` (R22). -/
def SeqState.code : SeqState → BitVec 4
  | .idle => 0
  | .sAddr => 1
  | .sPut => 2
  | .sCmd => 3
  | .sPoll => 4
  | .rAddr => 5
  | .rCmd => 6
  | .rPoll => 7
  | .rGet => 8

/-- The state belongs to a send (R22). -/
def SeqState.isSend : SeqState → Bool
  | .sAddr | .sPut | .sCmd | .sPoll => true
  | .idle | .rAddr | .rCmd | .rPoll | .rGet => false

/-- The state belongs to a receive (R22). -/
def SeqState.isReceive : SeqState → Bool
  | .rAddr | .rCmd | .rPoll | .rGet => true
  | .idle | .sAddr | .sPut | .sCmd | .sPoll => false

/-- `OP` as a bit: 0 = send, 1 = receive (R21). -/
def Op.bit : Op → Bool
  | .send => false
  | .receive => true

/-- The 2-bit status codes (R161). -/
def Status.code : Status → BitVec 2
  | .ok => 0
  | .invalidLength => 1
  | .busTimeout => 2
  | .resourceExhausted => 3

/-- Format S (R80): six zero bits, `STATUS`, `VALUE`; the registry's result is in this format at every width, its value
a handle. -/
def formatS (code : Status) (value : BitVec 8) : BitVec 16 := 0#6 ++ code.code ++ value

/-- The result word of the last `SEND` or `RECEIVE`, as the host reads it: `{0b000000, STATUS, REMAINING}` (R28), as a
number; format S (R80), whose `VALUE` has 8 bits, or `LEN_W` where that is more (log 26). -/
def State.resultWord (s : State) : Nat := s.status.code.toNat * 2 ^ max 8 s.cfg.widths.lenW + s.remaining

/-- `READY`: the condition `ST = IDLE` (R28). -/
def State.ready (s : State) : Bool := decide (s.st = .idle)

/-- `PCNT + 1 = POLL_LIMIT` (R107): a further busy answer is the last sample of this wait. Never with `INF`. -/
def State.atPollLimit (s : State) : Bool :=
  match s.cfg.pollLimit.samples with
  | none => false
  | some n => decide (s.pcnt + 1 = n)

/-- `IDX + 1 = LEN` (R107, R126): the current phase is the last. -/
def State.lastPhase (s : State) : Bool := decide (s.idx + 1 = s.len)

/-- The valid lengths of a `SEND`, `TX_MIN..TX_MAX` (R101). -/
def sendLengthValid (n : Nat) : Bool := decide (1 ≤ n ∧ n ≤ Config.txMax)

/-- The valid lengths of a `RECEIVE`, from `RX_MIN` (R121). -/
def receiveLengthValid (n : Nat) : Bool := decide (1 ≤ n)

end Sys2Proof.Machine
end

