-- ==== Sys2Proof/Machine/Command.lean ====
section
/-! DEFINITION. The eight commands (43 R143 to R151): the steps in `S_CMD` (41 R106) and `R_CMD` (42 R124). -/

namespace Sys2Proof.Machine

/-- The wait that follows a command: kinds 0..3 are a send's, 4..7 a receive's (R79, R106, R124). -/
def waitAfter : CmdKind → SeqState
  | .singleSend | .burstStart | .burstContinue | .burstFinish => .sPoll
  | .singleReceive | .burstReceiveStart | .burstReceiveContinue | .burstReceiveFinish => .rPoll

/-- Issue a command on bus `BUS` (R143): the controller is mid-operation until a `POLL` answers idle; the wait begins
with `PCNT = 0` (R106, R124, R154). -/
def State.issue (s : State) (k : CmdKind) : State :=
  { (s.log [.cmd s.bus k]).setPort s.bus { s.port s.bus with command := some k, unsettled := true } with
    pcnt := 0
    st := waitAfter k }

/-- `CMD(kind)`, the common part (R143). -/
def State.command (s : State) (k : CmdKind) : Host.Outcome State Fault Refusal :=
  s.emittingKnownIdle k.instr (.next (s.issue k))

/-- `CMD.SINGLE_SEND` (R144): `LEN = 1`. -/
def execCmdSingleSend (s : State) : Host.Outcome State Fault Refusal := s.command .singleSend

/-- `CMD.BURST_START` (R145): `LEN > 1`, first phase. -/
def execCmdBurstStart (s : State) : Host.Outcome State Fault Refusal := s.command .burstStart

/-- `CMD.BURST_CONTINUE` (R146): `LEN > 2`, a middle phase. -/
def execCmdBurstContinue (s : State) : Host.Outcome State Fault Refusal := s.command .burstContinue

/-- `CMD.BURST_FINISH` (R147): `LEN > 1`, last phase. -/
def execCmdBurstFinish (s : State) : Host.Outcome State Fault Refusal := s.command .burstFinish

/-- `CMD.SINGLE_RECEIVE` (R148): `LEN = 1`. -/
def execCmdSingleReceive (s : State) : Host.Outcome State Fault Refusal := s.command .singleReceive

/-- `CMD.BURST_RECEIVE_START` (R149): `LEN > 1`, first phase. -/
def execCmdBurstReceiveStart (s : State) : Host.Outcome State Fault Refusal := s.command .burstReceiveStart

/-- `CMD.BURST_RECEIVE_CONTINUE` (R150): `LEN > 2`, a middle phase. -/
def execCmdBurstReceiveContinue (s : State) : Host.Outcome State Fault Refusal := s.command .burstReceiveContinue

/-- `CMD.BURST_RECEIVE_FINISH` (R151): `LEN > 1`, last phase. -/
def execCmdBurstReceiveFinish (s : State) : Host.Outcome State Fault Refusal := s.command .burstReceiveFinish

end Sys2Proof.Machine
end

