-- ==== Sys2Proof/Machine/Micro.lean ====
section
/-! DEFINITION. `ADDR_SET` and `PUT` (43 R141, R142): the steps in `S_ADDR`, `R_ADDR` (41 R103, 42 R122) and `S_PUT`
(41 R105). -/

namespace Sys2Proof.Machine

/-- Program the target address and direction of bus `BUS` (R141). -/
def State.programAddress (s : State) (a7 : Addr7) (isRead : Bool) : State :=
  (s.log [.addrSet s.bus a7 isRead]).setPort s.bus { s.port s.bus with a7 := a7, isRead := isRead }

/-- `ADDR_SET(a7, isRead)`: the step in `S_ADDR` (R103, to `S_PUT`) and in `R_ADDR` (R122, to `R_CMD`). -/
def execAddrSet (a7 : Addr7) (isRead : Bool) (s : State) : Host.Outcome State Fault Refusal :=
  s.emittingKnownIdle (.addrSet a7 isRead)
    (.next { s.programAddress a7 isRead with st := if isRead then .rCmd else .sPut })

/-- `PUT(v)`: the step in `S_PUT` (R105): `v` is the byte the next send command transmits (R142). -/
def execPut (v : Byte) (s : State) : Host.Outcome State Fault Refusal :=
  s.emittingKnownIdle (.put v)
    (.next { (s.log [.put s.bus v]).setPort s.bus { s.port s.bus with data := v } with st := .sCmd })

end Sys2Proof.Machine
end

