-- ==== Sys2Proof/Machine/Registry.lean ====
section
/-! DEFINITION. `CLAIM` (40_claim R90 to R95), executed by the registry on its own port. -/

namespace Sys2Proof.Machine

/-- The set-up sequence of a successful claim as trace events, in this order (R94). -/
def claimEvents (periph : Nat) (dataPin clockPin : Nat) (f : Nat) (h : BusIndex) : List Event :=
  [.clkEn periph, .pinData dataPin, .pinClk clockPin, .sysclk f, .setRate h f false, .masterEn h]

/-- What the set-up sequence leaves in the controller: clocked, pins in I2C mode, rate programmed (standard mode),
master mode (R94, R193, R196). Address, data and command registers are not its business. -/
def Port.setUp (p : Port) (dataPin clockPin : Nat) (f : Nat) : Port :=
  { p with clocked := true, dataPin := some dataPin, clockPin := some clockPin, rate := some (f, false), master := true }

/-- The handle a claim hands out: the descriptor's index, `CLAIMS` (R93). -/
def State.nextHandle (s : State) : BusIndex := s.claims.setWidth 7

/-- Success (R93): the set-up of `DESC[h]`, `CLAIMS + 1`, result `{OK, h}` on the registry port. -/
def State.grantClaim (s : State) (dataPin clockPin : Nat) : State :=
  let h := s.nextHandle
  let f := s.clockAnswer
  let s1 := (s.useClock.log (claimEvents (s.cfg.descriptor h).periph dataPin clockPin f h)).setPort h
    ((s.port h).setUp dataPin clockPin f)
  { s1 with claims := s.claims + 1, registryPort := some (formatS .ok (h.setWidth 8)) }

/-- Exhaustion (R92): result `0x0300` on the registry port, and nothing else. -/
def State.exhaustClaim (s : State) : State :=
  { s with registryPort := some (formatS .resourceExhausted 0) }

/-- `CLAIM` (R90): presented only when `ST = IDLE` (R171), otherwise held (log 10). Above `NUM_BUSES`: log 23. -/
def execClaim (dataPin clockPin : Nat) (s : State) : Host.Outcome State Fault Refusal :=
  if s.st = .idle then
    .next (if s.claims.toNat < s.cfg.numBuses then s.consumeRequest.grantClaim dataPin clockPin
      else s.consumeRequest.exhaustClaim)
  else .refused .held

end Sys2Proof.Machine
end

