-- ==== Sys2Proof/Machine/Transfer.lean ====
section
/-! DEFINITION. Acceptance of `SEND` (41_send R101, R102) and `RECEIVE` (42_receive R121): the order of checks is idle,
claimed, length, accept (60 R172). -/

namespace Sys2Proof.Machine

/-- The checks before a request has a meaning (R172): `ST = IDLE`, else held (R171); handle claimed, else refused
(R170). -/
def State.admitting (s : State) (bus : BusIndex) (o : Host.Outcome State Fault Refusal) :
    Host.Outcome State Fault Refusal :=
  if s.st = .idle then if s.claimed bus then o else .refused .unclaimedHandle
  else .refused .held

/-- The latches a valid request writes, common to both operations (R101, R121). -/
def State.latch (s : State) (op : Op) (bus : BusIndex) (addr : BitVec 8) (len : Nat) (st : SeqState) : State :=
  { s with
    op := op
    bus := bus
    a7 := targetAddress addr
    len := len
    idx := 0
    pcnt := 0
    done := false
    st := st }

/-- Acceptance of a `SEND` (R101): the length check comes first and nothing else happens when it fails (R162). -/
def execSend (bus : BusIndex) (addr : BitVec 8) (data : List Byte) (s : State) : Host.Outcome State Fault Refusal :=
  s.admitting bus
    (if data.length ≤ s.cfg.rxMax then
      .next (if sendLengthValid data.length then
          (s.consumeRequest.stage data).latch .send bus addr data.length .sAddr
        else s.consumeRequest.raise .invalidLength data.length)
    else .refused .lengthNotExpressible)

/-- Acceptance of a `RECEIVE` (R121): `BUF` is not touched. -/
def execReceive (bus : BusIndex) (addr : BitVec 8) (len : Nat) (s : State) : Host.Outcome State Fault Refusal :=
  s.admitting bus
    (if len ≤ s.cfg.rxMax then
      .next (if receiveLengthValid len then s.consumeRequest.latch .receive bus addr len .rAddr
        else s.consumeRequest.raise .invalidLength len)
    else .refused .lengthNotExpressible)

end Sys2Proof.Machine
end

