-- ==== Sys2Proof/Machine/Wait.lean ====
section
/-! DEFINITION. `POLL` and `GET` (43 R153 to R155): the steps in `S_POLL` (41 R107, R108), `R_POLL` (42 R125) and `R_GET`
(42 R126, R127). -/

namespace Sys2Proof.Machine

/-- The end of a byte phase: `IDX + 1`, then completion after the last phase (R165), else the next phase (R107, R126). -/
def State.endPhase (s : State) (next : SeqState) : State :=
  if s.lastPhase then { s with idx := s.idx + 1 }.completeOk else { s with idx := s.idx + 1, st := next }

/-- A busy answer (R107, R125): the `POLL_LIMIT`-th one raises `BUS_TIMEOUT` with `REMAINING = LEN - IDX` (R163), any
earlier one is counted. -/
def State.afterBusy (s : State) : State :=
  if s.atPollLimit then s.raise .busTimeout (s.len - s.idx) else { s with pcnt := s.pcnt + 1 }

/-- An idle answer: in a send the phase has completed (R107); in a receive its byte can be fetched (R125). -/
def State.afterIdle (s : State) : State :=
  if s.st = .sPoll then s.endPhase .sPut else { s with st := .rGet }

/-- One sample of the busy flag of bus `BUS` (R153); an idle answer makes the bus known idle (R61). -/
def State.sample (s : State) : State :=
  if s.pollAnswer then (s.usePoll.log [.poll s.bus true]).afterBusy
  else ((s.usePoll.log [.poll s.bus false]).setUnsettled s.bus false).afterIdle

/-- `POLL`: the step in `S_POLL` and `R_POLL`. -/
def execPoll (s : State) : Host.Outcome State Fault Refusal := s.emitting .poll (.next s.sample)

/-- Fetch the data register and deliver the byte (R126): the sequencer does not inspect it. -/
def State.fetchByte (s : State) : State :=
  ((s.useGet.log [.get s.bus s.getAnswer]).rxWrite s.idx s.getAnswer).endPhase .rCmd

/-- `GET`: the step in `R_GET`. `RX` has cells `0..LEN-1` only (R51). -/
def execGet (s : State) : Host.Outcome State Fault Refusal :=
  s.emittingKnownIdle .get
    (if s.idx < s.len then .next s.fetchByte else .fault .rxOutOfRange)

end Sys2Proof.Machine
end

