-- ==== Sys2Proof/Machine/Dispatch.lean ====
section
/-! DEFINITION. One arm per operation of the opcode table. -/

namespace Sys2Proof.Machine

def exec (i : Instr) (s : State) : Host.Outcome State Fault Refusal :=
  match i with
  -- format K, on the registry's port
  | .claim dataPin clockPin => Sys2Proof.Machine.execClaim dataPin clockPin s
  -- format H, host operations
  | .send bus addr data => Sys2Proof.Machine.execSend bus addr data s
  | .receive bus addr len => Sys2Proof.Machine.execReceive bus addr len s
  -- format M, micro-operations
  | .addrSet a7 isRead => Sys2Proof.Machine.execAddrSet a7 isRead s
  | .put v => Sys2Proof.Machine.execPut v s
  | .cmdSingleSend => Sys2Proof.Machine.execCmdSingleSend s
  | .cmdBurstStart => Sys2Proof.Machine.execCmdBurstStart s
  | .cmdBurstContinue => Sys2Proof.Machine.execCmdBurstContinue s
  | .cmdBurstFinish => Sys2Proof.Machine.execCmdBurstFinish s
  | .cmdSingleReceive => Sys2Proof.Machine.execCmdSingleReceive s
  | .cmdBurstReceiveStart => Sys2Proof.Machine.execCmdBurstReceiveStart s
  | .cmdBurstReceiveContinue => Sys2Proof.Machine.execCmdBurstReceiveContinue s
  | .cmdBurstReceiveFinish => Sys2Proof.Machine.execCmdBurstReceiveFinish s
  | .poll => Sys2Proof.Machine.execPoll s
  | .get => Sys2Proof.Machine.execGet s

end Sys2Proof.Machine
end

