-- ==== Sys2Proof/Machine/Fetch.lean ====
section
/-! DEFINITION. Where the next operation comes from: in `IDLE` the host's request (10 R34, 30 R71), in any other state
the word of the micro-operation the state machine names (10 R24). There is no instruction memory (20 R53, R63). -/

namespace Sys2Proof.Machine

/-- The code of the next operation; none in `IDLE` with no request presented (R34). -/
def State.fetch (s : State) : Host.Outcome (Option Code) Fault Refusal :=
  match s.st with
  | .idle => .next (s.host.head?.map Code.request)
  | _ =>
    match s.namedOp with
    | .next i => .next (some (encode s.cfg.widths i))
    | .fault f => .fault f
    | .refused r => .refused r

/-- The handle a request names is claimed, as the boot requirement says it must be before a transfer (R193). -/
def State.withClaimed (s : State) (b : BusIndex) : State :=
  { s with claims := if s.claimed b then s.claims else b.setWidth 8 + 1 }

/-- In `IDLE`, presenting `r`, on a handle that is claimed (log 13). -/
def State.placeRequest (s : State) (r : Request) : State :=
  let s1 := { s with st := .idle, resetLine := false }.present r
  match decode s.cfg.widths (.request r) with
  | .ok (.send b _ _) => s1.withClaimed b
  | .ok (.receive b _ _) => s1.withClaimed b
  | _ => s1

/-- In the middle of a transaction with target `a7` on bus `BUS`, claimed and known idle, at phase `idx` of `len`, with
`data` staged (log 13). -/
def State.placePhase (s : State) (st : SeqState) (op : Op) (a7 : Addr7) (len idx : Nat) (data : List Byte) :
    State :=
  { ((s.withClaimed s.bus).setUnsettled s.bus false).stage data with
    st := st
    op := op
    a7 := a7
    len := len
    idx := idx
    pcnt := 0
    done := false
    resetLine := false }

/-- The state in which the state machine emits `CMD(k)`: the shortest transaction that has such a phase (R104, R123). -/
def State.placeCommand (s : State) : CmdKind → State
  | .singleSend => s.placePhase .sCmd .send s.a7 1 0 [0]
  | .burstStart => s.placePhase .sCmd .send s.a7 2 0 [0, 0]
  | .burstContinue => s.placePhase .sCmd .send s.a7 3 1 [0, 0, 0]
  | .burstFinish => s.placePhase .sCmd .send s.a7 2 1 [0, 0]
  | .singleReceive => s.placePhase .rCmd .receive s.a7 1 0 []
  | .burstReceiveStart => s.placePhase .rCmd .receive s.a7 2 0 []
  | .burstReceiveContinue => s.placePhase .rCmd .receive s.a7 3 1 []
  | .burstReceiveFinish => s.placePhase .rCmd .receive s.a7 2 1 []

/-- The state in which the state machine emits the micro-operation `i` (log 13); a host operation is not placed here. -/
def State.placeMicro (s : State) : Instr → State
  | .claim _ _ => s
  | .send _ _ _ => s
  | .receive _ _ _ => s
  | .addrSet a7 false => s.placePhase .sAddr .send a7 1 0 [0]
  | .addrSet a7 true => s.placePhase .rAddr .receive a7 1 0 []
  | .put v => s.placePhase .sPut .send s.a7 1 0 [v]
  | .cmdSingleSend => s.placeCommand .singleSend
  | .cmdBurstStart => s.placeCommand .burstStart
  | .cmdBurstContinue => s.placeCommand .burstContinue
  | .cmdBurstFinish => s.placeCommand .burstFinish
  | .cmdSingleReceive => s.placeCommand .singleReceive
  | .cmdBurstReceiveStart => s.placeCommand .burstReceiveStart
  | .cmdBurstReceiveContinue => s.placeCommand .burstReceiveContinue
  | .cmdBurstReceiveFinish => s.placeCommand .burstReceiveFinish
  | .poll => s.placePhase .sPoll .send s.a7 1 0 [0]
  | .get => s.placePhase .rGet .receive s.a7 1 0 []

/-- Put a code where the next step fetches it. A word that carries no micro-operation cannot be placed: the state machine
never emits one (R83). -/
def State.place (s : State) : Code → State
  | .request r => s.placeRequest r
  | .micro w =>
    match decodeMicro w with
    | .ok i => s.placeMicro i
    | .reject _ => s

end Sys2Proof.Machine
end

