-- ==== Sys2Proof/Machine/Step.lean ====
section
/-! DEFINITION. One step of the machine (10 R20, R33, R34; 70 R190), and how the host places an instruction. -/

namespace Sys2Proof.Machine

/-- One step: the reset event if its input is asserted (R190); in `IDLE` with no request presented nothing changes (R34);
otherwise the fetched operation is decoded and executed. -/
def step (s : State) : Host.Outcome State Fault Refusal :=
  if s.resetLine then .next s.applyReset
  else
    match s.fetch with
    | .next none => .next s
    | .next (some c) =>
      match decode s.cfg.widths c with
      | .ok i => exec i s
      | .reject e => .refused (.badEncoding e)
    | .fault f => .fault f
    | .refused r => .refused r

/-- `s` with the operation of the table's word `w` where the next step fetches it (log 13). -/
def State.withFetchWord (s : State) (nbits w : Nat) : State :=
  match tableCode nbits w with
  | some c => s.place c
  | none => s

end Sys2Proof.Machine
end

