-- ==== Sys2Proof/Safety.lean ====
section
/-! DEFINITION. What counts as a safe state and a safe run, in the terms the claims use: the datapath invariant (10 R32),
the no-overlap law (20 R61), what the last event of the trace is (43 R156), the traces a transaction must have (41 R110,
42 R129), and the states an execution can reach. -/

namespace Sys2Proof.Safety

open Sys2Proof.Machine

/-- The invariants of the datapath (R32), with what they rest on: the staged bytes (R27(c)), the storage's canonical form
and its bounds (R27(d), R50, R51), the bus known idle inside a transaction (R61), and `STATUS = 3` never in the
sequencer's register (R83(e), R164). -/
structure Inv (s : State) : Prop where
  /-- R32(b) -/
  phase : s.st ≠ .idle → 1 ≤ s.len ∧ s.idx < s.len
  /-- R32(b) -/
  claimedBus : s.st ≠ .idle → s.claimed s.bus = true
  /-- R32(b) -/
  sendOp : s.st.isSend = true → s.op = .send ∧ s.len ≤ 30
  /-- R32(b) -/
  receiveOp : s.st.isReceive = true → s.op = .receive
  /-- R32(c) -/
  firstPhase : s.st = .sAddr ∨ s.st = .rAddr → s.idx = 0
  /-- R32(d) -/
  waitBound : s.st = .sPoll ∨ s.st = .rPoll → ∀ n, s.cfg.pollLimit.samples = some n → s.pcnt < n
  /-- R32(e), R29 -/
  claimsBound : s.claims.toNat ≤ s.cfg.numBuses
  /-- R32(f) -/
  notDone : s.st ≠ .idle → s.done = false
  /-- R27(c): what `S_PUT` will read was staged -/
  staged : s.st.isSend = true → ∀ i, i < s.len → (s.buf.read i).isSome = true
  /-- R27(d): only `BUF[0..29]` is ever written -/
  bufForm : s.buf.wf ∧ ∀ c ∈ s.buf, c.1 < 30
  /-- R21, R24: the registers of `LEN_W` bits hold values of that width -/
  lengths : s.len ≤ s.cfg.rxMax ∧ s.idx ≤ s.cfg.rxMax ∧ s.remaining ≤ s.cfg.rxMax
  /-- R51: `RX` cells below `RX_MAX` -/
  rxForm : s.rx.wf ∧ ∀ c ∈ s.rx, c.1 < s.cfg.rxMax
  /-- R61: the next `PUT`, `CMD` or `GET` is on a bus known idle -/
  knownIdle : s.st = .sPut ∨ s.st = .sCmd ∨ s.st = .rCmd ∨ s.st = .rGet → s.knownIdle s.bus = true
  /-- R83(e), R164 -/
  transferStatus : s.status ≠ .resourceExhausted

/-- No command is outstanding on any bus, but the one the running wait is for (R61): what holds as long as no transaction
ended in `BUS_TIMEOUT` and no reset cut one short. -/
def Settled (s : State) : Prop :=
  ∀ b, (s.port b).unsettled = true → (s.st = .sPoll ∨ s.st = .rPoll) ∧ b = s.bus

/-- The step is the sample that times a wait out (R163). -/
def TimesOut (s : State) : Prop := (s.st = .sPoll ∨ s.st = .rPoll) ∧ s.pollAnswer = true ∧ s.atPollLimit = true

/-- What the last event of the trace is in each state of a transaction (R156(a), (c), (d)). -/
def LastEventFits (s : State) : Prop :=
  match s.st with
  | .idle => True
  | .sAddr => True
  | .rAddr => True
  | .sPut =>
    s.trace.getLast? = some (if s.idx = 0 then .addrSet s.bus s.a7 false else .poll s.bus false)
  | .sCmd => ∃ v, s.buf.read s.idx = some v ∧ s.trace.getLast? = some (.put s.bus v)
  | .sPoll =>
    ∃ k, sendKind s.len s.idx = some k ∧
      s.trace.getLast? = some (if s.pcnt = 0 then .cmd s.bus k else .poll s.bus true)
  | .rCmd =>
    if s.idx = 0 then s.trace.getLast? = some (.addrSet s.bus s.a7 true)
    else ∃ v, s.rx.read (s.idx - 1) = some v ∧ s.trace.getLast? = some (.get s.bus v)
  | .rPoll =>
    ∃ k, recvKind s.cfg.widths s.len s.idx = some k ∧
      s.trace.getLast? = some (if s.pcnt = 0 then .cmd s.bus k else .poll s.bus true)
  | .rGet => s.trace.getLast? = some (.poll s.bus false)

/-- The transitions of `ST` (R33), the reset event apart. -/
def Successor : SeqState → SeqState → Bool
  | .idle, t => t == .idle || t == .sAddr || t == .rAddr
  | .sAddr, t => t == .sPut
  | .sPut, t => t == .sCmd
  | .sCmd, t => t == .sPoll
  | .sPoll, t => t == .sPut || t == .sPoll || t == .idle
  | .rAddr, t => t == .rCmd
  | .rCmd, t => t == .rPoll
  | .rPoll, t => t == .rGet || t == .rPoll || t == .idle
  | .rGet, t => t == .rCmd || t == .idle

/-- The instruction is one of the twelve micro-operations (format M). -/
def IsMicro : Instr → Bool
  | .claim _ _ => false
  | .send _ _ _ => false
  | .receive _ _ _ => false
  | .addrSet _ _ => true
  | .put _ => true
  | .cmdSingleSend => true
  | .cmdBurstStart => true
  | .cmdBurstContinue => true
  | .cmdBurstFinish => true
  | .cmdSingleReceive => true
  | .cmdBurstReceiveStart => true
  | .cmdBurstReceiveContinue => true
  | .cmdBurstReceiveFinish => true
  | .poll => true
  | .get => true

/-- The micro-operation starts or uses a phase of bus activity, so that it needs a bus known idle: all but `POLL`
(R61, R201). -/
def NeedsIdleBus (i : Instr) : Bool := IsMicro i && !(i == .poll)

/-- The bus an event is on; none for the collaborator events that name no bus (R56, R94). -/
def eventBus : Event → Option BusIndex
  | .addrSet b _ _ => some b
  | .put b _ => some b
  | .cmd b _ => some b
  | .poll b _ => some b
  | .get b _ => some b
  | .setRate b _ _ => some b
  | .masterEn b => some b
  | .clkEn _ => none
  | .pinData _ => none
  | .pinClk _ => none
  | .sysclk _ => none

/-- `k` steps in a row, stopping at the first fault or refusal. -/
def run : Nat → State → Host.Outcome State Fault Refusal
  | 0, s => .next s
  | k + 1, s =>
    match step s with
    | .next s' => run k s'
    | .fault r => .fault r
    | .refused r => .refused r

/-- The answers of a wait that ends idle after `k` busy ones, `W(k + 1)` (R110, R154). -/
def waitAnswers (k : Nat) : List Bool := List.replicate k true ++ [false]

/-- The events of that wait. -/
def waitEvents (b : BusIndex) (k : Nat) : List Event := (waitAnswers k).map (Event.poll b)

/-- The command kind of phase `i` of `n`, as the expansions of R110 and R129 write it. -/
def expansionKind (single start continue_ finish : CmdKind) (n i : Nat) : CmdKind :=
  if n = 1 then single else if i = 0 then start else if i = n - 1 then finish else continue_

/-- The phases of a send from phase `i` on (R110): each is a byte and the number of busy answers of its wait. -/
def sendPhases (b : BusIndex) (n : Nat) : Nat → List (Byte × Nat) → List Event
  | _, [] => []
  | i, (v, k) :: rest =>
    .put b v :: .cmd b (expansionKind .singleSend .burstStart .burstContinue .burstFinish n i) ::
      (waitEvents b k ++ sendPhases b n (i + 1) rest)

/-- The phases of a receive from phase `i` on (R129). -/
def receivePhases (b : BusIndex) (n : Nat) : Nat → List (Byte × Nat) → List Event
  | _, [] => []
  | i, (v, k) :: rest =>
    .cmd b (expansionKind .singleReceive .burstReceiveStart .burstReceiveContinue .burstReceiveFinish n i) ::
      (waitEvents b k ++ .get b v :: receivePhases b n (i + 1) rest)

/-- The steps those phases take: two micro-operations and the wait's samples each. -/
def phaseSteps : List (Byte × Nat) → Nat
  | [] => 0
  | (_, k) :: rest => 2 + (k + 1) + phaseSteps rest

/-- The states an execution can reach, on any configuration: from reset, by steps, the reset event, a request the host
presents, answers the outside gives, and a bus the host restores (R20, R152, R190, R201). -/
inductive Reachable : State → Prop where
  | reset (c : Config) : Reachable (State.resetOn c)
  | step {s t : State} : Reachable s → step s = .next t → Reachable t
  | resetEvent {s : State} : Reachable s → Reachable s.applyReset
  | present {s : State} (r : Request) : Reachable s → Reachable (s.present r)
  | answers {s : State} (o : Oracle) : Reachable s → Reachable { s with oracle := o }
  | busRestored {s : State} (b : BusIndex) : Reachable s → Reachable (s.busRestored b)

end Sys2Proof.Safety
end

