-- ==== Sys2Proof/Certificates/Slice0/Obligations.lean ====
section
/-! DEFINITION. The statements for the provers. Each docstring names the rule of the spec it formalises; "the model's"
marks what a log entry chose. -/

open Sys2Proof Sys2Proof.Machine Sys2Proof.Safety

/-! ### Reset, fetch, placing -/

/-- R190, R191, R192: the reset event, in every state. That the event is an input the step reads is the model's (log 14);
so is the bookkeeping that a transaction cut short leaves its bus not known idle (log 8, from R201). `BUF` is left
unsaid, as R190 leaves it. -/
def Obligations.ResetEventGivesResetState : Prop :=
  ∀ s : State, s.resetLine = true →
    ∃ t, step s = .next t ∧
      t.st = .idle ∧ t.claims = 0 ∧ t.done = false ∧ t.status = .ok ∧ t.remaining = 0 ∧
      t.op = .send ∧ t.bus = 0 ∧ t.a7 = 0 ∧ t.len = 0 ∧ t.idx = 0 ∧ t.pcnt = 0 ∧
      t.trace = [] ∧ t.cfg = s.cfg ∧ t.host = s.host ∧ t.oracle = s.oracle ∧ t.resetLine = false ∧
      (∀ i, t.rx.read i = s.rx.read i) ∧
      (∀ b, b ≠ s.bus ∨ s.st = .idle → t.port b = s.port b) ∧
      (s.st ≠ .idle → t.port s.bus = { s.port s.bus with unsettled := true })

/-- R190: the state after reset, for the values the spec gives, on every platform; `State.reset` is it on an open platform
(log 1) at the default widths of R8. -/
def Obligations.ResetValues : Prop :=
  (∀ c : Config,
    let s := State.resetOn c
    s.st = .idle ∧ s.claims = 0 ∧ s.done = false ∧ s.status = .ok ∧ s.remaining = 0 ∧ s.op = .send ∧ s.bus = 0 ∧
      s.a7 = 0 ∧ s.len = 0 ∧ s.idx = 0 ∧ s.pcnt = 0 ∧ s.trace = [] ∧ s.cfg = c) ∧
    (∃ c, State.reset = State.resetOn c) ∧
    State.reset.cfg.widths.lenW = 8 ∧ State.reset.cfg.widths.pinW = 8 ∧ State.reset.cfg.rxMax = 255

/-- A step runs the decoded instruction (R20, R24, R34, R71): where the code the step fetches decodes to `i`, the step is
the meaning of `i`, with nothing added around it; and what it fetches is the presented request in `IDLE`, the word of
the named micro-operation elsewhere. -/
def Obligations.FetchedOperationRuns : Prop :=
  ∀ (s : State), s.resetLine = false →
    (∀ c i, s.fetch = .next (some c) → decode s.cfg.widths c = .ok i → step s = exec i s) ∧
    (s.st = .idle → s.fetch = .next (s.host.head?.map Code.request)) ∧
    (s.st ≠ .idle → ∀ i, s.namedOp = .next i →
      s.fetch = .next (some (encode s.cfg.widths i)) ∧
        decode s.cfg.widths (encode s.cfg.widths i) = .ok i ∧ step s = exec i s)

/-- R34: in `IDLE` with no request presented nothing changes. That this is a step at all is the model's (log 3). -/
def Obligations.IdleWithoutRequestHolds : Prop :=
  ∀ s : State, s.resetLine = false → s.st = .idle → s.host = [] → step s = .next s

/-- How an instruction comes to run (log 13): placed with `withFetchWord`, in any state of a machine of the widths the
opcode table is written for (R8's defaults, log 12), it is what the next step runs, and that step completes. -/
def Obligations.PlacedOperationRuns : Prop :=
  ∀ (s : State) (nbits w : Nat) (i : Instr), s.cfg.widths = .standard → decodeTableWord nbits w = some i →
    ∃ t, step (s.withFetchWord nbits w) = .next t ∧ exec i (s.withFetchWord nbits w) = .next t

/-! ### Encoding -/

/-- R72 to R79, R81: no bit of an encoding is dropped, at any widths (R8; that the fields of other widths follow the
default layout is the model's, log 11). -/
def Obligations.DecodeEncodeRoundTrip : Prop :=
  ∀ (w : Widths) (i : Instr), i.wellFormed w = true → decode w (encode w i) = .ok i

/-- R72 to R83: each instruction has exactly one code, so that what decodes is what the encoder writes, at any widths
(log 11). -/
def Obligations.EncodeDecodeRoundTrip : Prop :=
  ∀ (w : Widths) (c : Code) (i : Instr), decode w c = .ok i → i.wellFormed w = true ∧ encode w i = c

/-- Words of the spec (R78, R79, R74; 95 S7, S8, P1, V1, V44) decode to what they stand for, or are rejected by name. -/
def Obligations.SpecWordsDecode : Prop :=
  decode .standard (.micro 0x190#12) = .ok (.addrSet 0x48 false) ∧
    decode .standard (.micro 0x191#12) = .ok (.addrSet 0x48 true) ∧
    decode .standard (.micro 0x27F#12) = .ok (.put 0x7F) ∧
    decode .standard (.micro 0x300#12) = .ok .cmdSingleSend ∧
    decode .standard (.micro 0x307#12) = .ok .cmdBurstReceiveFinish ∧
    decode .standard (.micro 0x400#12) = .ok .poll ∧
    decode .standard (.micro 0x500#12) = .ok .get ∧
    decode .standard (.request (.transfer 0x009003 [0x01, 0x02, 0x03])) = .ok (.send 0 0x90 [0x01, 0x02, 0x03]) ∧
    decode .standard (.request (.transfer 0x809001 [])) = .ok (.receive 0 0x90 1) ∧
    decode .standard (.request (.claim 0x0607)) = .ok (.claim 0x06 0x07) ∧
    decode .standard (.micro 0x600#12) = .reject .unassignedClass ∧
    decode .standard (.micro 0x308#12) = .reject .unassignedKind ∧
    decode .standard (.micro 0x401#12) = .reject .nonzeroPayload

/-- R83(b): exactly the assigned words of format M carry a micro-operation, whatever the configured widths. -/
def Obligations.AssignedMicroWords : Prop :=
  ∀ (v : Widths) (w : BitVec 12), (∃ i, decode v (.micro w) = .ok i) ↔
    (w.extractLsb' 8 4 = 1 ∨ w.extractLsb' 8 4 = 2 ∨
      (w.extractLsb' 8 4 = 3 ∧ (w.extractLsb' 0 8).toNat ≤ 7) ∨
      (w.extractLsb' 8 4 = 4 ∧ w.extractLsb' 0 8 = 0) ∨
      (w.extractLsb' 8 4 = 5 ∧ w.extractLsb' 0 8 = 0))

/-- R74: `A7 = ADDR >> 1`; `ADDR[0]` is ignored by `SEND` and by `RECEIVE`; every `A7` can be named and goes to the
controller unchanged: it is the operand of the `ADDR_SET` that follows the acceptance; the worked values. -/
def Obligations.TargetAddressStripsLowBit : Prop :=
  (∀ a : BitVec 8, (targetAddress a).toNat = a.toNat / 2) ∧
    (∀ (s : State) (b : BusIndex) (a a' : BitVec 8) (d : List Byte) (n : Nat),
      a.extractLsb' 1 7 = a'.extractLsb' 1 7 →
        exec (.send b a d) s = exec (.send b a' d) s ∧ exec (.receive b a n) s = exec (.receive b a' n) s) ∧
    (∀ a7 : Addr7, ∃ a : BitVec 8, targetAddress a = a7) ∧
    (∀ (s t : State) (b : BusIndex) (a : BitVec 8) (d : List Byte), exec (.send b a d) s = .next t →
      t.st = .sAddr → t.namedOp = .next (.addrSet (targetAddress a) false)) ∧
    (∀ (s t : State) (b : BusIndex) (a : BitVec 8) (n : Nat), exec (.receive b a n) s = .next t →
      t.st = .rAddr → t.namedOp = .next (.addrSet (targetAddress a) true)) ∧
    targetAddress 0x90 = 0x48 ∧ targetAddress 0x91 = 0x48

/-- R104: the table of `send_kind` on its domain, and no kind outside it. -/
def Obligations.SendKindTable : Prop :=
  ∀ len idx : Nat,
    (1 ≤ len ∧ len ≤ 30 ∧ idx < len →
      (len = 1 → sendKind len idx = some .singleSend) ∧
      (1 < len → idx = 0 → sendKind len idx = some .burstStart) ∧
      (1 < len → 0 < idx → idx < len - 1 → sendKind len idx = some .burstContinue) ∧
      (1 < len → idx = len - 1 → sendKind len idx = some .burstFinish)) ∧
    (¬ (1 ≤ len ∧ len ≤ 30 ∧ idx < len) → sendKind len idx = none)

/-- R123: the table of `recv_kind` on its domain, at any width of `LEN`, no kind outside it, and the codes four
above the send's. -/
def Obligations.ReceiveKindTable : Prop :=
  ∀ (w : Widths) (len idx : Nat),
    (1 ≤ len ∧ len ≤ w.rxMax ∧ idx < len →
      (len = 1 → recvKind w len idx = some .singleReceive) ∧
      (1 < len → idx = 0 → recvKind w len idx = some .burstReceiveStart) ∧
      (1 < len → 0 < idx → idx < len - 1 → recvKind w len idx = some .burstReceiveContinue) ∧
      (1 < len → idx = len - 1 → recvKind w len idx = some .burstReceiveFinish)) ∧
    (¬ (1 ≤ len ∧ len ≤ w.rxMax ∧ idx < len) → recvKind w len idx = none) ∧
    (∀ k j, sendKind len idx = some k → recvKind w len idx = some j → j.code = k.code + 4)

/-- R80, R161: the result word is six zero bits, the status code, the value; the four codes. The host's word of the
sequencer is in that format as long as `REMAINING` fits its 8-bit value field, so always with `LEN_W ≤ 8` (R8, R21); for
a greater `LEN_W` the field has `LEN_W` bits, which is the model's (log 26). -/
def Obligations.ResultWordLayout : Prop :=
  (∀ (c : Status) (v : BitVec 8),
    (formatS c v).extractLsb' 10 6 = 0 ∧ (formatS c v).extractLsb' 8 2 = c.code ∧ (formatS c v).extractLsb' 0 8 = v) ∧
    (∀ s : State, s.cfg.widths.lenW ≤ 8 → s.remaining < 256 →
      s.resultWord = (formatS s.status (BitVec.ofNat 8 s.remaining)).toNat) ∧
    (∀ s : State, 8 ≤ s.cfg.widths.lenW → s.remaining ≤ s.cfg.rxMax →
      s.resultWord / 2 ^ s.cfg.widths.lenW = s.status.code.toNat ∧
        s.resultWord % 2 ^ s.cfg.widths.lenW = s.remaining) ∧
    Status.code .ok = 0 ∧ Status.code .invalidLength = 1 ∧ Status.code .busTimeout = 2 ∧
    Status.code .resourceExhausted = 3

/-! ### Host operations -/

/-- R93, with the calls of R94 as events: a successful `CLAIM` hands out the next descriptor. `DONE`, `STATUS`,
`REMAINING` and everything else the last line does not name stay; what the calls leave in the controller and what becomes
of the request are other statements'. -/
def Obligations.ClaimGrantsNextDescriptor : Prop :=
  ∀ (s : State) (dataPin clockPin : Nat), s.st = .idle → s.claims.toNat < s.cfg.numBuses →
    ∃ t, exec (.claim dataPin clockPin) s = .next t ∧
      ∃ (h : BusIndex) (f : Nat), h.toNat = s.claims.toNat ∧
        t.claims.toNat = s.claims.toNat + 1 ∧
        t.registryPort = some (BitVec.ofNat 16 s.claims.toNat) ∧
        t.trace = s.trace ++ [.clkEn (s.cfg.descriptor h).periph, .pinData dataPin, .pinClk clockPin,
          .sysclk f, .setRate h f false, .masterEn h] ∧
        (∀ b, t.claimed b = true ↔ s.claimed b = true ∨ b = h) ∧
        (∀ b, b ≠ h → t.port b = s.port b) ∧
        t = { s with
          claims := t.claims
          registryPort := t.registryPort
          trace := t.trace
          ports := t.ports
          oracle := t.oracle
          host := t.host }

/-- R94, R196 as the model keeps them in the controller's port (log 16): after a successful `CLAIM` the controller is
clocked, its pins are set, its rate is programmed from the frequency `SYSCLK` answered, it is in master mode; the
registers the micro-operations write, and whether the bus is settled, are as they were. -/
def Obligations.ClaimSetsUpController : Prop :=
  ∀ (s : State) (dataPin clockPin : Nat) (h : BusIndex), s.st = .idle → s.claims.toNat < s.cfg.numBuses →
    h.toNat = s.claims.toNat →
    ∃ t, exec (.claim dataPin clockPin) s = .next t ∧
      .sysclk s.clockAnswer ∈ t.trace ∧
      t.port h = { s.port h with
        clocked := true
        dataPin := some dataPin
        clockPin := some clockPin
        rate := some (s.clockAnswer, false)
        master := true }

/-- R92: a `CLAIM` with every controller claimed answers `0x0300` on the registry's port and does nothing else (what
becomes of the request is another statement's). -/
def Obligations.ClaimExhaustedChangesNothing : Prop :=
  ∀ (s : State) (dataPin clockPin : Nat), s.st = .idle → s.claims.toNat = s.cfg.numBuses →
    ∃ t, exec (.claim dataPin clockPin) s = .next t ∧ t = { s with registryPort := some 0x0300, host := t.host }

/-- The model's (log 3, from R71 "a request is one atomic value" and R34 "acceptance is one step"): the step that answers
a host operation, accepted or rejected, takes the request from the host's list; no micro-operation does. -/
def Obligations.AcceptanceConsumesRequest : Prop :=
  ∀ (i : Instr) (s t : State), exec i s = .next t → t.host = if IsMicro i then s.host else s.host.tail

/-- R171, R90: no host operation is accepted while a transaction runs. -/
def Obligations.HostOperationsHeldWhileRunning : Prop :=
  ∀ (s : State) (p q : Nat) (b : BusIndex) (a : BitVec 8) (n : Nat) (d : List Byte), s.st ≠ .idle →
    exec (.claim p q) s = .refused .held ∧ exec (.send b a d) s = .refused .held ∧
      exec (.receive b a n) s = .refused .held

/-- R101, R102: acceptance of a `SEND`. A bad length writes `STATUS`, `REMAINING`, `DONE` and nothing else; a good one
stages the bytes in order, leaves the cells from `len` on, writes the latches, and leaves the previous result. -/
def Obligations.SendAcceptance : Prop :=
  ∀ (s : State) (b : BusIndex) (a : BitVec 8) (d : List Byte),
    s.st = .idle → s.claimed b = true → d.length ≤ s.cfg.rxMax →
    (d.length = 0 ∨ 30 < d.length →
      ∃ t, exec (.send b a d) s = .next t ∧
        t = { s with
          status := .invalidLength
          remaining := d.length
          done := true
          st := .idle
          host := t.host }) ∧
    (1 ≤ d.length ∧ d.length ≤ 30 →
      ∃ t, exec (.send b a d) s = .next t ∧
        (∀ i, i < d.length → t.buf.read i = d[i]?) ∧
        (∀ i, d.length ≤ i → t.buf.read i = s.buf.read i) ∧
        t = { s with
          buf := t.buf
          op := .send
          bus := b
          a7 := a.extractLsb' 1 7
          len := d.length
          idx := 0
          pcnt := 0
          done := false
          st := .sAddr
          host := t.host })

/-- R121: acceptance of a `RECEIVE`. -/
def Obligations.ReceiveAcceptance : Prop :=
  ∀ (s : State) (b : BusIndex) (a : BitVec 8) (n : Nat), s.st = .idle → s.claimed b = true → n ≤ s.cfg.rxMax →
    (n = 0 →
      ∃ t, exec (.receive b a n) s = .next t ∧
        t = { s with
          status := .invalidLength
          remaining := 0
          done := true
          st := .idle
          host := t.host }) ∧
    (n ≠ 0 →
      ∃ t, exec (.receive b a n) s = .next t ∧
        t = { s with
          op := .receive
          bus := b
          a7 := a.extractLsb' 1 7
          len := n
          idx := 0
          pcnt := 0
          done := false
          st := .rAddr
          host := t.host })

/-- R170, R172: an unclaimed handle is refused, whatever the length (the check comes before the length check). -/
def Obligations.UnclaimedHandleRefused : Prop :=
  ∀ (s : State) (b : BusIndex) (a : BitVec 8) (n : Nat) (d : List Byte), s.st = .idle → s.claims.toNat ≤ b.toNat →
    exec (.send b a d) s = .refused .unclaimedHandle ∧ exec (.receive b a n) s = .refused .unclaimedHandle

/-- 93 U16, R8: more bytes than format H can count, above `RX_MAX`, are refused; such an instruction has no encoding. -/
def Obligations.OverlongSendRefused : Prop :=
  ∀ (s : State) (b : BusIndex) (a : BitVec 8) (d : List Byte), s.st = .idle → s.claimed b = true →
    s.cfg.rxMax < d.length →
    exec (.send b a d) s = .refused .lengthNotExpressible ∧ ∀ c, decode s.cfg.widths c ≠ .ok (.send b a d)

/-! ### Micro-operations -/

/-- R103, R122, R141: `ADDR_SET` in `S_ADDR` and in `R_ADDR`. -/
def Obligations.AddressSetProgramsTarget : Prop :=
  ∀ (s : State) (rd : Bool), s.st = (if rd then .rAddr else .sAddr) → s.knownIdle s.bus = true →
    exec (.addrSet s.a7 rd) s = .next { s with
      st := if rd then .rCmd else .sPut
      trace := s.trace ++ [.addrSet s.bus s.a7 rd]
      ports := (s.setPort s.bus { s.port s.bus with a7 := s.a7, isRead := rd }).ports }

/-- R105, R142: in `S_PUT` the staged byte `IDX` exists, and `PUT` of it completes. -/
def Obligations.PutLoadsStagedByte : Prop :=
  ∀ s : State, Inv s → s.st = .sPut →
    ∃ v, s.buf.read s.idx = some v ∧
      exec (.put v) s = .next { s with
        st := .sCmd
        trace := s.trace ++ [.put s.bus v]
        ports := (s.setPort s.bus { s.port s.bus with data := v }).ports }

/-- R106, R143 to R147: in `S_CMD` the command of the phase, `CMD.SINGLE_SEND`, `CMD.BURST_START`, `CMD.BURST_CONTINUE`
or `CMD.BURST_FINISH`. -/
def Obligations.SendCommandIssued : Prop :=
  ∀ (s : State) (k : CmdKind), s.st = .sCmd → s.knownIdle s.bus = true →
    sendKind s.len s.idx = some k →
    exec k.instr s = .next { s with
      st := .sPoll
      pcnt := 0
      trace := s.trace ++ [.cmd s.bus k]
      ports := (s.setPort s.bus { s.port s.bus with command := some k, unsettled := true }).ports }

/-- R124, R143, R148 to R151: in `R_CMD` the command of the phase, `CMD.SINGLE_RECEIVE`, `CMD.BURST_RECEIVE_START`,
`CMD.BURST_RECEIVE_CONTINUE` or `CMD.BURST_RECEIVE_FINISH`. -/
def Obligations.ReceiveCommandIssued : Prop :=
  ∀ (s : State) (k : CmdKind), s.st = .rCmd → s.knownIdle s.bus = true →
    recvKind s.cfg.widths s.len s.idx = some k →
    exec k.instr s = .next { s with
      st := .rPoll
      pcnt := 0
      trace := s.trace ++ [.cmd s.bus k]
      ports := (s.setPort s.bus { s.port s.bus with command := some k, unsettled := true }).ports }

/-- R107: an idle answer in `S_POLL` ends a phase that is not the last. -/
def Obligations.PollIdleEndsSendPhase : Prop :=
  ∀ s : State, s.st = .sPoll → s.pollAnswer = false → s.idx + 1 < s.len →
    exec .poll s = .next { s with
      st := .sPut
      idx := s.idx + 1
      oracle := s.usePoll.oracle
      trace := s.trace ++ [.poll s.bus false]
      ports := (s.setPort s.bus { s.port s.bus with unsettled := false }).ports }

/-- R125: an idle answer in `R_POLL` leads to the fetch; `IDX` is not advanced. -/
def Obligations.PollIdleLeadsToGet : Prop :=
  ∀ s : State, s.st = .rPoll → s.pollAnswer = false →
    exec .poll s = .next { s with
      st := .rGet
      oracle := s.usePoll.oracle
      trace := s.trace ++ [.poll s.bus false]
      ports := (s.setPort s.bus { s.port s.bus with unsettled := false }).ports }

/-- R107, R125, R26: a busy answer that is not the `POLL_LIMIT`-th is counted, and the state stays. With `INF` every busy
answer is such. -/
def Obligations.PollBusyIsCounted : Prop :=
  ∀ s : State, s.st = .sPoll ∨ s.st = .rPoll → s.pollAnswer = true →
    s.cfg.pollLimit.samples ≠ some (s.pcnt + 1) →
    exec .poll s = .next { s with
      pcnt := s.pcnt + 1
      oracle := s.usePoll.oracle
      trace := s.trace ++ [.poll s.bus true] }

/-- R163, R166: the `POLL_LIMIT`-th busy answer raises `BUS_TIMEOUT` with `REMAINING = LEN - IDX`, between 1 and `LEN`;
everything but the result, `ST` and the trace stays; with `INF` no step raises it. -/
def Obligations.PollLimitRaisesBusTimeout : Prop :=
  (∀ s : State, Inv s → s.st = .sPoll ∨ s.st = .rPoll → s.pollAnswer = true →
    s.cfg.pollLimit.samples = some (s.pcnt + 1) →
    exec .poll s = .next { s with
      st := .idle
      status := .busTimeout
      remaining := s.len - s.idx
      done := true
      oracle := s.usePoll.oracle
      trace := s.trace ++ [.poll s.bus true] } ∧
    1 ≤ s.len - s.idx ∧ s.len - s.idx ≤ s.len ∧ s.len - s.idx + s.idx = s.len) ∧
  (∀ s t : State, s.cfg.pollLimit.samples = none → step s = .next t → t.status = .busTimeout → s.status = .busTimeout)

/-- R165, R108, R127: the step that ends the last phase completes `OK`, in a send (`POLL` answered idle) and in a receive
(`GET`); the operand latches, `PCNT` and `BUF` keep their values and `IDX` becomes `LEN`. The answers used and the ports
are other statements'. -/
def Obligations.LastPhaseCompletesOk : Prop :=
  (∀ s : State, s.st = .sPoll → s.pollAnswer = false → s.idx + 1 = s.len →
    ∃ t, exec .poll s = .next t ∧
      t = { s with
        st := .idle
        idx := s.len
        status := .ok
        remaining := 0
        done := true
        trace := s.trace ++ [.poll s.bus false]
        oracle := t.oracle
        ports := t.ports }) ∧
  (∀ s : State, s.st = .rGet → s.knownIdle s.bus = true → s.idx + 1 = s.len →
    ∃ t, exec .get s = .next t ∧
      t.rx.read s.idx = some s.getAnswer ∧ (∀ i, i ≠ s.idx → t.rx.read i = s.rx.read i) ∧
      t = { s with
        st := .idle
        idx := s.len
        status := .ok
        remaining := 0
        done := true
        trace := s.trace ++ [.get s.bus s.getAnswer]
        oracle := t.oracle
        rx := t.rx })

/-- R61 ("known idle from the moment a `POLL` on it answers idle"), with the model's record of it (log 8): an idle answer
settles bus `BUS`, and changes nothing else in any port; a busy answer changes no port. -/
def Obligations.IdleAnswerSettlesBus : Prop :=
  ∀ s : State, s.st = .sPoll ∨ s.st = .rPoll →
    ∃ t, exec .poll s = .next t ∧
      (∀ b, b ≠ s.bus → t.port b = s.port b) ∧
      (s.pollAnswer = true → t.port s.bus = s.port s.bus) ∧
      (s.pollAnswer = false → t.port s.bus = { s.port s.bus with unsettled := false } ∧
        (s.claimed s.bus = true → t.knownIdle s.bus = true))

/-- R126, R155: `GET` before the last phase delivers the byte to `RX[IDX]`, advances `IDX` and goes on. -/
def Obligations.GetDeliversByte : Prop :=
  ∀ s : State, s.st = .rGet → s.knownIdle s.bus = true → s.idx + 1 < s.len →
    ∃ t, exec .get s = .next t ∧
      t.rx.read s.idx = some s.getAnswer ∧ (∀ i, i ≠ s.idx → t.rx.read i = s.rx.read i) ∧
      t = { s with
        st := .rCmd
        idx := s.idx + 1
        oracle := s.useGet.oracle
        trace := s.trace ++ [.get s.bus s.getAnswer]
        rx := t.rx }

/-- R201, 93 U4: `ADDR_SET`, `PUT`, `CMD` and `GET` on a bus that is not known idle are a fault. -/
def Obligations.UnsettledBusFaults : Prop :=
  ∀ (s : State) (i : Instr), NeedsIdleBus i = true → s.namedOp = .next i → s.knownIdle s.bus = false →
    exec i s = .fault .busNotKnownIdle

/-- R33 ("No other transition exists"), R34: no other micro-operation than the named one has a step. The name of the
refusal is the model's (log 9). -/
def Obligations.OnlyTheNamedMicroOperationRuns : Prop :=
  ∀ (s : State) (i : Instr), IsMicro i = true →
    (s.st = .idle → exec i s = .refused .notEmitted) ∧
    (∀ j, s.namedOp = .next j → j ≠ i → exec i s = .refused .notEmitted)

/-! ### Invariants -/

/-- The invariants hold right after reset (R32, R61), on every platform. The clause `Settled` is the model's: 70 section 1
calls the ports and the busy flag unknown at reset, the model has every port settled at power-on (log 7), and rests that
on the boot premise of 70 section 2 (R196, 20 section 5), an assumption the spec marks as its own (log 19). -/
def Obligations.InvariantsHoldAtReset : Prop :=
  (∀ c : Config, Inv (State.resetOn c) ∧ Settled (State.resetOn c) ∧ LastEventFits (State.resetOn c)) ∧
    Inv State.reset ∧ Settled State.reset ∧ LastEventFits State.reset

/-- R32, R27(c), R27(d), R164: every step keeps the datapath invariant, from every state that meets it, whatever the
controller answers. -/
def Obligations.StepKeepsDatapathInvariant : Prop :=
  ∀ s t : State, Inv s → step s = .next t → Inv t

/-- R32 "in every reachable state": reachable by steps, reset events, presented requests, any answers, restored buses;
from the state after reset on every platform. -/
def Obligations.ReachableStatesMeetInvariant : Prop :=
  ∀ s : State, Reachable s → Inv s

/-- R27(c), R32, R55, R169: from a state that meets the invariant the only stops are a micro-operation on a bus not known
idle at the start of a transaction (93 U4), an unclaimed handle (R170), and a word that is no request. Every other step
answers a next state: no unstaged cell is read, no index leaves its space. -/
def Obligations.InvariantLeavesOnlyDeclaredStops : Prop :=
  ∀ s : State, Inv s →
    (∃ t, step s = .next t) ∨
    (step s = .fault .busNotKnownIdle ∧ (s.st = .sAddr ∨ s.st = .rAddr) ∧ s.knownIdle s.bus = false) ∨
    (s.st = .idle ∧ (step s = .refused .unclaimedHandle ∨ ∃ e, step s = .refused (.badEncoding e)))

/-- R61: the no-overlap law. As long as no wait times out and no reset comes, no command is outstanding on any bus but the
one the running wait is for, and no micro-operation meets a bus that is not known idle. -/
def Obligations.NoOverlapLaw : Prop :=
  ∀ s : State, Inv s → Settled s → s.resetLine = false →
    step s ≠ .fault .busNotKnownIdle ∧ ∀ t, step s = .next t → ¬ TimesOut s → Settled t

/-- R156(a), (c), (d): what the last event of the trace is, in every state of a transaction: every `CMD` is followed by a
`POLL`, a `PUT` by its `CMD`, and a `PUT`, `CMD` or `GET` follows `ADDR_SET` or an idle answer (or the delivered byte). -/
def Obligations.StepKeepsTraceDiscipline : Prop :=
  ∀ s t : State, Inv s → LastEventFits s → step s = .next t → LastEventFits t

/-! ### Whole-machine rules -/

/-- R33: the transitions of `ST` are those of the table. -/
def Obligations.TransitionsFollowTheTable : Prop :=
  ∀ s t : State, s.resetLine = false → step s = .next t → Successor s.st t.st = true

/-- R37, R30: no step writes the configuration. -/
def Obligations.ConfigurationNeverChanges : Prop :=
  ∀ s t : State, step s = .next t → t.cfg = s.cfg

/-- R29, R95(a): `CLAIMS` changes by a successful `CLAIM` alone, by one, up to `NUM_BUSES`; reset apart. -/
def Obligations.ClaimsOnlyGrow : Prop :=
  ∀ s t : State, s.resetLine = false → step s = .next t →
    t.claims = s.claims ∨
    (s.st = .idle ∧ t.st = .idle ∧ t.claims.toNat = s.claims.toNat + 1 ∧ t.claims.toNat ≤ s.cfg.numBuses ∧
      t.registryPort = some (BitVec.ofNat 16 s.claims.toNat))

/-- R23, R102: `OP`, `BUS`, `A7`, `LEN` (and `BUF`) are written only at the acceptance of a valid request; a rejected
request does not write them; and while a transaction runs no step reads the host's requests. -/
def Obligations.OperandLatchesHoldUntilAcceptance : Prop :=
  (∀ s t : State, s.resetLine = false → step s = .next t → s.st ≠ .idle ∨ t.st = .idle →
    t.op = s.op ∧ t.bus = s.bus ∧ t.a7 = s.a7 ∧ t.len = s.len ∧ t.buf = s.buf) ∧
  (∀ (s t : State) (h : List Request), s.resetLine = false → s.st ≠ .idle → step s = .next t →
    step { s with host := h } = .next { t with host := h })

/-- R20, R56, R64, R94: a step of a transaction appends exactly one event, on bus `BUS`; a step in `IDLE` appends nothing
or the six events of a claim. -/
def Obligations.TraceGrowsByOneEvent : Prop :=
  ∀ s t : State, s.resetLine = false → step s = .next t →
    (s.st ≠ .idle → ∃ e, eventBus e = some s.bus ∧ t.trace = s.trace ++ [e]) ∧
    (s.st = .idle → t.trace = s.trace ∨
      ∃ p d c f h, t.trace = s.trace ++ [.clkEn p, .pinData d, .pinClk c, .sysclk f, .setRate h f false, .masterEn h])

/-- R28: `STATUS` and `REMAINING` are written only by the completing step, together with `DONE`; `DONE` alone is also
cleared, by the acceptance of a valid request. -/
def Obligations.ResultRegistersHoldBetweenCompletions : Prop :=
  ∀ s t : State, s.resetLine = false → step s = .next t →
    (t.status ≠ s.status ∨ t.remaining ≠ s.remaining → t.st = .idle ∧ t.done = true) ∧
    (t.done ≠ s.done → (t.done = true ∧ t.st = .idle) ∨ (t.done = false ∧ s.st = .idle ∧ t.st ≠ .idle))

/-- R111, R130, R64: what a step of a transaction leaves unchanged: `CLAIMS`, the registry's port, the host's requests,
every port but that of `BUS`, `BUF`; a send's also `RX`. -/
def Obligations.TransactionFrame : Prop :=
  ∀ s t : State, s.resetLine = false → s.st ≠ .idle → step s = .next t →
    t.claims = s.claims ∧ t.registryPort = s.registryPort ∧ t.host = s.host ∧ t.cfg = s.cfg ∧
      (∀ b, b ≠ s.bus → t.port b = s.port b) ∧ (∀ i, t.buf.read i = s.buf.read i) ∧
      (s.st.isSend = true → ∀ i, t.rx.read i = s.rx.read i)

/-- R27, R63, R36, R130: a receive reads no scratch cell and a send none at or above its length, so that no byte of an
earlier transaction can reach a later one. -/
def Obligations.StaleScratchNeverMatters : Prop :=
  ∀ (s t : State) (m : Memory), s.resetLine = false →
    (s.st.isReceive = true ∨
      (s.st.isSend = true ∧ s.idx < s.len ∧ ∀ i, i < s.len → m.read i = s.buf.read i)) →
    step s = .next t → step { s with buf := m } = .next { t with buf := m }

/-- R51: the sequencer never reads `RX`: what stands there changes nothing else a step does. -/
def Obligations.ReceiveStorageNeverRead : Prop :=
  ∀ (s t : State) (m : Memory), step s = .next t →
    ∃ t', step { s with rx := m } = .next t' ∧ { t' with rx := t.rx } = t

/-! ### Whole transactions -/

/-- R110: a `SEND` of `n` bytes, 1..30, whose wait of phase `i` sees `k_i` busy answers (fewer than `POLL_LIMIT`) and then
an idle one, has exactly the trace of the expansion, completes `OK`, and takes one step more than it has events. A header
expresses `n` only if it is at most `RX_MAX` (R8; no bound at the default widths). The clauses on `host` and on the answers
(`polls`) rest on the model's lists of requests (log 3) and of answers (log 4). -/
def Obligations.SendHasItsExpansion : Prop :=
  ∀ (s : State) (b : BusIndex) (a : BitVec 8) (phases : List (Byte × Nat)) (others : List Request)
    (later : List Bool),
    s.resetLine = false → s.st = .idle → s.knownIdle b = true →
    1 ≤ phases.length → phases.length ≤ 30 → phases.length ≤ s.cfg.rxMax →
    s.host = .transfer (headerWord s.cfg.widths false b a phases.length) (phases.map Prod.fst) :: others →
    s.oracle.polls = phases.flatMap (fun p => waitAnswers p.2) ++ later →
    (∀ p ∈ phases, ∀ n, s.cfg.pollLimit.samples = some n → p.2 < n) →
    ∃ t, run (2 + phaseSteps phases) s = .next t ∧
      t.trace = s.trace ++ .addrSet b (targetAddress a) false :: sendPhases b phases.length 0 phases ∧
      t.st = .idle ∧ t.done = true ∧ t.status = .ok ∧ t.remaining = 0 ∧ t.resultWord = 0 ∧
      t.knownIdle b = true ∧ t.idx = phases.length ∧ t.host = others ∧ t.oracle.polls = later ∧
      t.rx = s.rx ∧ t.claims = s.claims ∧ (∀ c, c ≠ b → t.port c = s.port c)

/-- R129, R128: a `RECEIVE` of `n` bytes, 1..`RX_MAX`, with the answers given, has exactly the trace of the expansion,
completes `OK`, and `RX[i]` is the answer of the `i`-th `GET`. That the cells of `RX` from `n` on are as before is the
model's: one storage kept across receives (log 6). The clauses on `host` and on the answers rest on logs 3 and 4. -/
def Obligations.ReceiveHasItsExpansion : Prop :=
  ∀ (s : State) (b : BusIndex) (a : BitVec 8) (phases : List (Byte × Nat)) (others : List Request)
    (later : List Bool) (more : List Byte),
    s.resetLine = false → s.st = .idle → s.knownIdle b = true →
    1 ≤ phases.length → phases.length ≤ s.cfg.rxMax →
    s.host = .transfer (headerWord s.cfg.widths true b a phases.length) [] :: others →
    s.oracle.polls = phases.flatMap (fun p => waitAnswers p.2) ++ later →
    s.oracle.gets = phases.map Prod.fst ++ more →
    (∀ p ∈ phases, ∀ n, s.cfg.pollLimit.samples = some n → p.2 < n) →
    ∃ t, run (2 + phaseSteps phases) s = .next t ∧
      t.trace = s.trace ++ .addrSet b (targetAddress a) true :: receivePhases b phases.length 0 phases ∧
      (∀ i, i < phases.length → t.rx.read i = (phases.map Prod.fst)[i]?) ∧
      (∀ i, phases.length ≤ i → t.rx.read i = s.rx.read i) ∧
      t.st = .idle ∧ t.done = true ∧ t.status = .ok ∧ t.remaining = 0 ∧ t.resultWord = 0 ∧
      t.knownIdle b = true ∧ t.idx = phases.length ∧ t.host = others ∧ t.oracle.polls = later ∧
      t.oracle.gets = more ∧ t.buf = s.buf ∧ t.claims = s.claims ∧ (∀ c, c ≠ b → t.port c = s.port c)

/-- R110 (last sentence), R154(b), R163, R167: a `SEND` whose wait of phase `j` sees `POLL_LIMIT` busy answers has the
prefix of the expansion up to that phase's command, then those answers and nothing after, and ends in `BUS_TIMEOUT` with
`REMAINING = n - j`; its bus is no longer known idle (R61, R201), in the model's record of it (log 8). `v` is the byte of
phase `j`, `data` those after it. The answers rest on log 4. -/
def Obligations.SendTimeoutHasItsPrefix : Prop :=
  ∀ (s : State) (b : BusIndex) (a : BitVec 8) (phases : List (Byte × Nat)) (v : Byte) (data : List Byte)
    (others : List Request) (later : List Bool) (limit : Nat),
    s.resetLine = false → s.st = .idle → s.knownIdle b = true →
    phases.length + 1 + data.length ≤ 30 → phases.length + 1 + data.length ≤ s.cfg.rxMax →
    s.cfg.pollLimit.samples = some limit →
    s.host = .transfer (headerWord s.cfg.widths false b a (phases.length + 1 + data.length))
      (phases.map Prod.fst ++ v :: data) :: others →
    s.oracle.polls = phases.flatMap (fun p => waitAnswers p.2) ++ List.replicate limit true ++ later →
    (∀ p ∈ phases, p.2 < limit) →
    ∃ t, run (2 + phaseSteps phases + 2 + limit) s = .next t ∧
      t.trace = s.trace ++ .addrSet b (targetAddress a) false ::
        (sendPhases b (phases.length + 1 + data.length) 0 phases ++
          .put b v :: .cmd b (expansionKind .singleSend .burstStart .burstContinue .burstFinish
            (phases.length + 1 + data.length) phases.length) :: List.replicate limit (.poll b true)) ∧
      t.st = .idle ∧ t.done = true ∧ t.status = .busTimeout ∧ t.remaining = 1 + data.length ∧
      t.idx = phases.length ∧ t.knownIdle b = false ∧ t.oracle.polls = later

/-- R129 (last sentence), R154(b), R163, R168: a `RECEIVE` of `n` bytes whose wait of phase `j` sees `POLL_LIMIT` busy
answers has the prefix of the expansion up to that phase's command, then those answers and nothing after, and ends in
`BUS_TIMEOUT` with `REMAINING = n - j`; its bus is no longer known idle (R61, R201; log 8). R168 says that `RX[0 .. j-1]`
have been written; what `RX` then shows is the model's (log 6), and 93 U10 says that the document promises the host nothing
of it after a failed receive, so the two clauses on `RX` are claims about the sequencer's writes, not about what a host may
use. The answers rest on log 4. -/
def Obligations.ReceiveTimeoutHasItsPrefix : Prop :=
  ∀ (s : State) (b : BusIndex) (a : BitVec 8) (n : Nat) (phases : List (Byte × Nat)) (others : List Request)
    (later : List Bool) (more : List Byte) (limit : Nat),
    s.resetLine = false → s.st = .idle → s.knownIdle b = true →
    phases.length < n → n ≤ s.cfg.rxMax → s.cfg.pollLimit.samples = some limit →
    s.host = .transfer (headerWord s.cfg.widths true b a n) [] :: others →
    s.oracle.polls = phases.flatMap (fun p => waitAnswers p.2) ++ List.replicate limit true ++ later →
    s.oracle.gets = phases.map Prod.fst ++ more →
    (∀ p ∈ phases, p.2 < limit) →
    ∃ t, run (2 + phaseSteps phases + 1 + limit) s = .next t ∧
      t.trace = s.trace ++ .addrSet b (targetAddress a) true ::
        (receivePhases b n 0 phases ++
          .cmd b (expansionKind .singleReceive .burstReceiveStart .burstReceiveContinue .burstReceiveFinish
            n phases.length) :: List.replicate limit (.poll b true)) ∧
      (∀ i, i < phases.length → t.rx.read i = (phases.map Prod.fst)[i]?) ∧
      (∀ i, phases.length ≤ i → t.rx.read i = s.rx.read i) ∧
      t.st = .idle ∧ t.done = true ∧ t.status = .busTimeout ∧ t.remaining = n - phases.length ∧
      t.idx = phases.length ∧ t.knownIdle b = false ∧ t.oracle.polls = later ∧ t.oracle.gets = more

/-- R204: with a finite `POLL_LIMIT` every accepted transaction completes within `1 + 2 * LEN + LEN * POLL_LIMIT` events,
whatever the controller answers; one event a step. The bus known idle at the start is the premise of R61. -/
def Obligations.TransactionCompletesWithinBound : Prop :=
  ∀ (s : State) (limit : Nat), Inv s → s.resetLine = false → s.st = .sAddr ∨ s.st = .rAddr →
    s.knownIdle s.bus = true → s.cfg.pollLimit.samples = some limit →
    ∃ k t, k ≤ 1 + 2 * s.len + s.len * limit ∧ run k s = .next t ∧
      t.st = .idle ∧ t.done = true ∧ (t.status = .ok ∨ t.status = .busTimeout) ∧
      t.trace.length = s.trace.length + k

/-- R204, R154, R26, R107, 93 U13: with `POLL_LIMIT = INF` a wait goes on for as long as the controller answers busy,
whatever the number of samples; the state is not left and nothing completes. Each busy answer adds one to `PCNT` (R26, R107); that the
count never wraps rests on log 15, `PCNT` a natural number, where R21 gives it any width with `INF`. -/
def Obligations.EndlessWaitIsKept : Prop :=
  ∀ (s : State) (k : Nat) (later : List Bool), s.resetLine = false → s.st = .sPoll ∨ s.st = .rPoll →
    s.cfg.pollLimit = .inf → s.oracle.polls = List.replicate k true ++ later →
    ∃ t, run k s = .next t ∧ t.st = s.st ∧ t.done = s.done ∧ t.idx = s.idx ∧ t.pcnt = s.pcnt + k ∧
      t.trace = s.trace ++ List.replicate k (.poll s.bus true)

/-! ### The configured widths -/

/-- R72, R73, R81, R8: the fields of format H and of format K, written out at the default widths, and the width of a word
at any widths (log 11). -/
def Obligations.RequestFields : Prop :=
  (∀ (op : Bool) (b : BusIndex) (a : BitVec 8) (n : Nat), n < 256 →
    headerWord .standard op b a n = op.toNat * 2 ^ 23 + b.toNat * 2 ^ 16 + a.toNat * 2 ^ 8 + n) ∧
  (∀ p q : Nat, claimWord .standard p q = p * 2 ^ 8 + q) ∧
  (∀ (w : Widths) (op : Bool) (b : BusIndex) (a : BitVec 8) (n : Nat), n ≤ w.rxMax →
    headerWord w op b a n < 2 ^ (16 + w.lenW)) ∧
  (∀ (w : Widths) (p q : Nat), p < 2 ^ w.pinW → q < 2 ^ w.pinW → claimWord w p q < 2 ^ (2 * w.pinW))

/-- 93 U16, R8: a `RECEIVE` of a length above `RX_MAX`, which format H cannot express, is refused and has no encoding. -/
def Obligations.OverlongReceiveRefused : Prop :=
  ∀ (s : State) (b : BusIndex) (a : BitVec 8) (n : Nat), s.st = .idle → s.claimed b = true → s.cfg.rxMax < n →
    exec (.receive b a n) s = .refused .lengthNotExpressible ∧ ∀ c, decode s.cfg.widths c ≠ .ok (.receive b a n)
end

