-- ==== Sys2Proof/Laws/Decode.lean ====
section
/-! SUPPORT. The fields of concatenated words and of a header word of any length width, and that the word of a
micro-operation decodes to it. -/

namespace Sys2Proof

theorem extract_low {n m : Nat} (x : BitVec n) (y : BitVec m) (s l : Nat) (h : s + l ≤ m) :
    (x ++ y).extractLsb' s l = y.extractLsb' s l := by
  apply BitVec.eq_of_getLsbD_eq
  intro i hi
  simp only [BitVec.getLsbD_extractLsb', hi, decide_true, Bool.true_and, BitVec.getLsbD_append]
  rw [if_pos (by omega)]

theorem extract_high {n m : Nat} (x : BitVec n) (y : BitVec m) (s l : Nat) :
    (x ++ y).extractLsb' (m + s) l = x.extractLsb' s l := by
  apply BitVec.eq_of_getLsbD_eq
  intro i hi
  simp only [BitVec.getLsbD_extractLsb', hi, decide_true, Bool.true_and, BitVec.getLsbD_append]
  rw [if_neg (by omega)]
  congr 1; omega

theorem extract_all {n : Nat} (x : BitVec n) : x.extractLsb' 0 n = x := by
  apply BitVec.eq_of_getLsbD_eq
  intro i hi
  simp [hi]

theorem bit_low {n m : Nat} (x : BitVec n) (y : BitVec m) (i : Nat) (h : i < m) :
    (x ++ y).getLsbD i = y.getLsbD i := by
  rw [BitVec.getLsbD_append, if_pos h]

theorem bit_high {n m : Nat} (x : BitVec n) (y : BitVec m) (i : Nat) :
    (x ++ y).getLsbD (m + i) = x.getLsbD i := by
  rw [BitVec.getLsbD_append, if_neg (by omega)]
  congr 1; omega

theorem microWord_payload (c : BitVec 4) (p : Byte) : (microWord c p).extractLsb' 0 8 = p :=
  (extract_low c p 0 8 (by omega)).trans (extract_all p)

theorem microWord_class (c : BitVec 4) (p : Byte) : (microWord c p).extractLsb' 8 4 = c :=
  (extract_high c p 0 4).trans (extract_all c)

theorem addrSet_a7 (c : BitVec 4) (a7 : Addr7) (r : Bool) :
    (microWord c (addrPayload a7 r)).extractLsb' 1 7 = a7 :=
  (extract_low c (addrPayload a7 r) 1 7 (by omega)).trans
    ((extract_high a7 (BitVec.ofBool r) 0 7).trans (extract_all a7))

theorem addrSet_isRead (c : BitVec 4) (a7 : Addr7) (r : Bool) :
    (microWord c (addrPayload a7 r)).getLsbD 0 = r :=
  (bit_low c (addrPayload a7 r) 0 (by omega)).trans
    ((bit_low a7 (BitVec.ofBool r) 0 (by omega)).trans (by cases r <;> rfl))

/-- The fields of a header word. -/
theorem headerWord_len {w : Widths} {len : Nat} (o : Bool) (b : BusIndex) (a : BitVec 8) (h : len < 2 ^ w.lenW) :
    headerWord w o b a len % 2 ^ w.lenW = len := by
  rw [headerWord, Nat.add_comm, Nat.add_mul_mod_self_right, Nat.mod_eq_of_lt h]

theorem headerWord_rest {w : Widths} {len : Nat} (o : Bool) (b : BusIndex) (a : BitVec 8) (h : len < 2 ^ w.lenW) :
    headerWord w o b a len / 2 ^ w.lenW = (o.toNat * 128 + b.toNat) * 256 + a.toNat := by
  rw [headerWord, Nat.add_comm, Nat.add_mul_div_right _ _ (Nat.two_pow_pos _), Nat.div_eq_of_lt h, Nat.zero_add]

/-- A length is expressible exactly if it fits the field (R8). -/
theorem Widths.le_rxMax_iff (w : Widths) (n : Nat) : n ≤ w.rxMax ↔ n < 2 ^ w.lenW := by
  have := Nat.two_pow_pos w.lenW
  rw [Widths.rxMax]; omega

theorem decode_cmdWord (k : CmdKind) : decodeMicro (cmdWord k) = .ok k.instr := by
  cases k <;> decide

/-- The word the sequencer puts on the port is read back as the micro-operation it stands for. -/
theorem decode_encode_micro {i : Instr} (w : Widths) (h : Safety.IsMicro i = true) :
    decode w (encode w i) = .ok i := by
  cases i with
  | claim _ _ => cases h
  | send _ _ _ => cases h
  | receive _ _ _ => cases h
  | addrSet a7 r =>
    simp only [encode, decode, decodeMicro, microWord_class, addrSet_a7, addrSet_isRead]
    rfl
  | put v =>
    simp only [encode, decode, decodeMicro, microWord_class, microWord_payload]
    rfl
  | poll => exact (by decide : decodeMicro (microWord 4 0) = .ok .poll)
  | get => exact (by decide : decodeMicro (microWord 5 0) = .ok .get)
  | cmdSingleSend => exact decode_cmdWord .singleSend
  | cmdBurstStart => exact decode_cmdWord .burstStart
  | cmdBurstContinue => exact decode_cmdWord .burstContinue
  | cmdBurstFinish => exact decode_cmdWord .burstFinish
  | cmdSingleReceive => exact decode_cmdWord .singleReceive
  | cmdBurstReceiveStart => exact decode_cmdWord .burstReceiveStart
  | cmdBurstReceiveContinue => exact decode_cmdWord .burstReceiveContinue
  | cmdBurstReceiveFinish => exact decode_cmdWord .burstReceiveFinish

end Sys2Proof
end

