-- ==== Sys2Proof/Laws/State.lean ====
section
/-! SUPPORT. What each named update does to each field of the state, one lemma per field, all true by unfolding; no later
proof unfolds a record update. -/

namespace Sys2Proof.Machine

variable (s : State)

section setPortFields

@[simp] theorem State.setPort_cfg (b : BusIndex) (p : Port) : (s.setPort b p).cfg = s.cfg := rfl
@[simp] theorem State.setPort_st (b : BusIndex) (p : Port) : (s.setPort b p).st = s.st := rfl
@[simp] theorem State.setPort_op (b : BusIndex) (p : Port) : (s.setPort b p).op = s.op := rfl
@[simp] theorem State.setPort_bus (b : BusIndex) (p : Port) : (s.setPort b p).bus = s.bus := rfl
@[simp] theorem State.setPort_a7 (b : BusIndex) (p : Port) : (s.setPort b p).a7 = s.a7 := rfl
@[simp] theorem State.setPort_len (b : BusIndex) (p : Port) : (s.setPort b p).len = s.len := rfl
@[simp] theorem State.setPort_idx (b : BusIndex) (p : Port) : (s.setPort b p).idx = s.idx := rfl
@[simp] theorem State.setPort_pcnt (b : BusIndex) (p : Port) : (s.setPort b p).pcnt = s.pcnt := rfl
@[simp] theorem State.setPort_buf (b : BusIndex) (p : Port) : (s.setPort b p).buf = s.buf := rfl
@[simp] theorem State.setPort_status (b : BusIndex) (p : Port) : (s.setPort b p).status = s.status := rfl
@[simp] theorem State.setPort_remaining (b : BusIndex) (p : Port) : (s.setPort b p).remaining = s.remaining := rfl
@[simp] theorem State.setPort_done (b : BusIndex) (p : Port) : (s.setPort b p).done = s.done := rfl
@[simp] theorem State.setPort_claims (b : BusIndex) (p : Port) : (s.setPort b p).claims = s.claims := rfl
@[simp] theorem State.setPort_registryPort (b : BusIndex) (p : Port) : (s.setPort b p).registryPort = s.registryPort := rfl
@[simp] theorem State.setPort_rx (b : BusIndex) (p : Port) : (s.setPort b p).rx = s.rx := rfl
@[simp] theorem State.setPort_ports (b : BusIndex) (p : Port) : (s.setPort b p).ports = s.ports.set b.toNat p b.isLt := rfl
@[simp] theorem State.setPort_host (b : BusIndex) (p : Port) : (s.setPort b p).host = s.host := rfl
@[simp] theorem State.setPort_resetLine (b : BusIndex) (p : Port) : (s.setPort b p).resetLine = s.resetLine := rfl
@[simp] theorem State.setPort_oracle (b : BusIndex) (p : Port) : (s.setPort b p).oracle = s.oracle := rfl
@[simp] theorem State.setPort_trace (b : BusIndex) (p : Port) : (s.setPort b p).trace = s.trace := rfl

end setPortFields

section logFields

@[simp] theorem State.log_cfg (es : List Event) : (s.log es).cfg = s.cfg := rfl
@[simp] theorem State.log_st (es : List Event) : (s.log es).st = s.st := rfl
@[simp] theorem State.log_op (es : List Event) : (s.log es).op = s.op := rfl
@[simp] theorem State.log_bus (es : List Event) : (s.log es).bus = s.bus := rfl
@[simp] theorem State.log_a7 (es : List Event) : (s.log es).a7 = s.a7 := rfl
@[simp] theorem State.log_len (es : List Event) : (s.log es).len = s.len := rfl
@[simp] theorem State.log_idx (es : List Event) : (s.log es).idx = s.idx := rfl
@[simp] theorem State.log_pcnt (es : List Event) : (s.log es).pcnt = s.pcnt := rfl
@[simp] theorem State.log_buf (es : List Event) : (s.log es).buf = s.buf := rfl
@[simp] theorem State.log_status (es : List Event) : (s.log es).status = s.status := rfl
@[simp] theorem State.log_remaining (es : List Event) : (s.log es).remaining = s.remaining := rfl
@[simp] theorem State.log_done (es : List Event) : (s.log es).done = s.done := rfl
@[simp] theorem State.log_claims (es : List Event) : (s.log es).claims = s.claims := rfl
@[simp] theorem State.log_registryPort (es : List Event) : (s.log es).registryPort = s.registryPort := rfl
@[simp] theorem State.log_rx (es : List Event) : (s.log es).rx = s.rx := rfl
@[simp] theorem State.log_ports (es : List Event) : (s.log es).ports = s.ports := rfl
@[simp] theorem State.log_host (es : List Event) : (s.log es).host = s.host := rfl
@[simp] theorem State.log_resetLine (es : List Event) : (s.log es).resetLine = s.resetLine := rfl
@[simp] theorem State.log_oracle (es : List Event) : (s.log es).oracle = s.oracle := rfl
@[simp] theorem State.log_trace (es : List Event) : (s.log es).trace = s.trace ++ es := rfl

end logFields

section rxWriteFields

@[simp] theorem State.rxWrite_cfg (i : Nat) (v : Byte) : (s.rxWrite i v).cfg = s.cfg := rfl
@[simp] theorem State.rxWrite_st (i : Nat) (v : Byte) : (s.rxWrite i v).st = s.st := rfl
@[simp] theorem State.rxWrite_op (i : Nat) (v : Byte) : (s.rxWrite i v).op = s.op := rfl
@[simp] theorem State.rxWrite_bus (i : Nat) (v : Byte) : (s.rxWrite i v).bus = s.bus := rfl
@[simp] theorem State.rxWrite_a7 (i : Nat) (v : Byte) : (s.rxWrite i v).a7 = s.a7 := rfl
@[simp] theorem State.rxWrite_len (i : Nat) (v : Byte) : (s.rxWrite i v).len = s.len := rfl
@[simp] theorem State.rxWrite_idx (i : Nat) (v : Byte) : (s.rxWrite i v).idx = s.idx := rfl
@[simp] theorem State.rxWrite_pcnt (i : Nat) (v : Byte) : (s.rxWrite i v).pcnt = s.pcnt := rfl
@[simp] theorem State.rxWrite_buf (i : Nat) (v : Byte) : (s.rxWrite i v).buf = s.buf := rfl
@[simp] theorem State.rxWrite_status (i : Nat) (v : Byte) : (s.rxWrite i v).status = s.status := rfl
@[simp] theorem State.rxWrite_remaining (i : Nat) (v : Byte) : (s.rxWrite i v).remaining = s.remaining := rfl
@[simp] theorem State.rxWrite_done (i : Nat) (v : Byte) : (s.rxWrite i v).done = s.done := rfl
@[simp] theorem State.rxWrite_claims (i : Nat) (v : Byte) : (s.rxWrite i v).claims = s.claims := rfl
@[simp] theorem State.rxWrite_registryPort (i : Nat) (v : Byte) : (s.rxWrite i v).registryPort = s.registryPort := rfl
@[simp] theorem State.rxWrite_rx (i : Nat) (v : Byte) : (s.rxWrite i v).rx = s.rx.write i v := rfl
@[simp] theorem State.rxWrite_ports (i : Nat) (v : Byte) : (s.rxWrite i v).ports = s.ports := rfl
@[simp] theorem State.rxWrite_host (i : Nat) (v : Byte) : (s.rxWrite i v).host = s.host := rfl
@[simp] theorem State.rxWrite_resetLine (i : Nat) (v : Byte) : (s.rxWrite i v).resetLine = s.resetLine := rfl
@[simp] theorem State.rxWrite_oracle (i : Nat) (v : Byte) : (s.rxWrite i v).oracle = s.oracle := rfl
@[simp] theorem State.rxWrite_trace (i : Nat) (v : Byte) : (s.rxWrite i v).trace = s.trace := rfl

end rxWriteFields

section stageFields

@[simp] theorem State.stage_cfg (d : List Byte) : (s.stage d).cfg = s.cfg := rfl
@[simp] theorem State.stage_st (d : List Byte) : (s.stage d).st = s.st := rfl
@[simp] theorem State.stage_op (d : List Byte) : (s.stage d).op = s.op := rfl
@[simp] theorem State.stage_bus (d : List Byte) : (s.stage d).bus = s.bus := rfl
@[simp] theorem State.stage_a7 (d : List Byte) : (s.stage d).a7 = s.a7 := rfl
@[simp] theorem State.stage_len (d : List Byte) : (s.stage d).len = s.len := rfl
@[simp] theorem State.stage_idx (d : List Byte) : (s.stage d).idx = s.idx := rfl
@[simp] theorem State.stage_pcnt (d : List Byte) : (s.stage d).pcnt = s.pcnt := rfl
@[simp] theorem State.stage_buf (d : List Byte) : (s.stage d).buf = s.buf.writeFrom 0 d := rfl
@[simp] theorem State.stage_status (d : List Byte) : (s.stage d).status = s.status := rfl
@[simp] theorem State.stage_remaining (d : List Byte) : (s.stage d).remaining = s.remaining := rfl
@[simp] theorem State.stage_done (d : List Byte) : (s.stage d).done = s.done := rfl
@[simp] theorem State.stage_claims (d : List Byte) : (s.stage d).claims = s.claims := rfl
@[simp] theorem State.stage_registryPort (d : List Byte) : (s.stage d).registryPort = s.registryPort := rfl
@[simp] theorem State.stage_rx (d : List Byte) : (s.stage d).rx = s.rx := rfl
@[simp] theorem State.stage_ports (d : List Byte) : (s.stage d).ports = s.ports := rfl
@[simp] theorem State.stage_host (d : List Byte) : (s.stage d).host = s.host := rfl
@[simp] theorem State.stage_resetLine (d : List Byte) : (s.stage d).resetLine = s.resetLine := rfl
@[simp] theorem State.stage_oracle (d : List Byte) : (s.stage d).oracle = s.oracle := rfl
@[simp] theorem State.stage_trace (d : List Byte) : (s.stage d).trace = s.trace := rfl

end stageFields

section usePollFields

@[simp] theorem State.usePoll_cfg : s.usePoll.cfg = s.cfg := rfl
@[simp] theorem State.usePoll_st : s.usePoll.st = s.st := rfl
@[simp] theorem State.usePoll_op : s.usePoll.op = s.op := rfl
@[simp] theorem State.usePoll_bus : s.usePoll.bus = s.bus := rfl
@[simp] theorem State.usePoll_a7 : s.usePoll.a7 = s.a7 := rfl
@[simp] theorem State.usePoll_len : s.usePoll.len = s.len := rfl
@[simp] theorem State.usePoll_idx : s.usePoll.idx = s.idx := rfl
@[simp] theorem State.usePoll_pcnt : s.usePoll.pcnt = s.pcnt := rfl
@[simp] theorem State.usePoll_buf : s.usePoll.buf = s.buf := rfl
@[simp] theorem State.usePoll_status : s.usePoll.status = s.status := rfl
@[simp] theorem State.usePoll_remaining : s.usePoll.remaining = s.remaining := rfl
@[simp] theorem State.usePoll_done : s.usePoll.done = s.done := rfl
@[simp] theorem State.usePoll_claims : s.usePoll.claims = s.claims := rfl
@[simp] theorem State.usePoll_registryPort : s.usePoll.registryPort = s.registryPort := rfl
@[simp] theorem State.usePoll_rx : s.usePoll.rx = s.rx := rfl
@[simp] theorem State.usePoll_ports : s.usePoll.ports = s.ports := rfl
@[simp] theorem State.usePoll_host : s.usePoll.host = s.host := rfl
@[simp] theorem State.usePoll_resetLine : s.usePoll.resetLine = s.resetLine := rfl
@[simp] theorem State.usePoll_oracle : s.usePoll.oracle = { s.oracle with polls := s.oracle.polls.tail, draws := s.oracle.draws + 1 } := rfl
@[simp] theorem State.usePoll_trace : s.usePoll.trace = s.trace := rfl

end usePollFields

section useGetFields

@[simp] theorem State.useGet_cfg : s.useGet.cfg = s.cfg := rfl
@[simp] theorem State.useGet_st : s.useGet.st = s.st := rfl
@[simp] theorem State.useGet_op : s.useGet.op = s.op := rfl
@[simp] theorem State.useGet_bus : s.useGet.bus = s.bus := rfl
@[simp] theorem State.useGet_a7 : s.useGet.a7 = s.a7 := rfl
@[simp] theorem State.useGet_len : s.useGet.len = s.len := rfl
@[simp] theorem State.useGet_idx : s.useGet.idx = s.idx := rfl
@[simp] theorem State.useGet_pcnt : s.useGet.pcnt = s.pcnt := rfl
@[simp] theorem State.useGet_buf : s.useGet.buf = s.buf := rfl
@[simp] theorem State.useGet_status : s.useGet.status = s.status := rfl
@[simp] theorem State.useGet_remaining : s.useGet.remaining = s.remaining := rfl
@[simp] theorem State.useGet_done : s.useGet.done = s.done := rfl
@[simp] theorem State.useGet_claims : s.useGet.claims = s.claims := rfl
@[simp] theorem State.useGet_registryPort : s.useGet.registryPort = s.registryPort := rfl
@[simp] theorem State.useGet_rx : s.useGet.rx = s.rx := rfl
@[simp] theorem State.useGet_ports : s.useGet.ports = s.ports := rfl
@[simp] theorem State.useGet_host : s.useGet.host = s.host := rfl
@[simp] theorem State.useGet_resetLine : s.useGet.resetLine = s.resetLine := rfl
@[simp] theorem State.useGet_oracle : s.useGet.oracle = { s.oracle with gets := s.oracle.gets.tail, draws := s.oracle.draws + 1 } := rfl
@[simp] theorem State.useGet_trace : s.useGet.trace = s.trace := rfl

end useGetFields

section useClockFields

@[simp] theorem State.useClock_cfg : s.useClock.cfg = s.cfg := rfl
@[simp] theorem State.useClock_st : s.useClock.st = s.st := rfl
@[simp] theorem State.useClock_op : s.useClock.op = s.op := rfl
@[simp] theorem State.useClock_bus : s.useClock.bus = s.bus := rfl
@[simp] theorem State.useClock_a7 : s.useClock.a7 = s.a7 := rfl
@[simp] theorem State.useClock_len : s.useClock.len = s.len := rfl
@[simp] theorem State.useClock_idx : s.useClock.idx = s.idx := rfl
@[simp] theorem State.useClock_pcnt : s.useClock.pcnt = s.pcnt := rfl
@[simp] theorem State.useClock_buf : s.useClock.buf = s.buf := rfl
@[simp] theorem State.useClock_status : s.useClock.status = s.status := rfl
@[simp] theorem State.useClock_remaining : s.useClock.remaining = s.remaining := rfl
@[simp] theorem State.useClock_done : s.useClock.done = s.done := rfl
@[simp] theorem State.useClock_claims : s.useClock.claims = s.claims := rfl
@[simp] theorem State.useClock_registryPort : s.useClock.registryPort = s.registryPort := rfl
@[simp] theorem State.useClock_rx : s.useClock.rx = s.rx := rfl
@[simp] theorem State.useClock_ports : s.useClock.ports = s.ports := rfl
@[simp] theorem State.useClock_host : s.useClock.host = s.host := rfl
@[simp] theorem State.useClock_resetLine : s.useClock.resetLine = s.resetLine := rfl
@[simp] theorem State.useClock_oracle : s.useClock.oracle = { s.oracle with clocks := s.oracle.clocks.tail, draws := s.oracle.draws + 1 } := rfl
@[simp] theorem State.useClock_trace : s.useClock.trace = s.trace := rfl

end useClockFields

section consumeRequestFields

@[simp] theorem State.consumeRequest_cfg : s.consumeRequest.cfg = s.cfg := rfl
@[simp] theorem State.consumeRequest_st : s.consumeRequest.st = s.st := rfl
@[simp] theorem State.consumeRequest_op : s.consumeRequest.op = s.op := rfl
@[simp] theorem State.consumeRequest_bus : s.consumeRequest.bus = s.bus := rfl
@[simp] theorem State.consumeRequest_a7 : s.consumeRequest.a7 = s.a7 := rfl
@[simp] theorem State.consumeRequest_len : s.consumeRequest.len = s.len := rfl
@[simp] theorem State.consumeRequest_idx : s.consumeRequest.idx = s.idx := rfl
@[simp] theorem State.consumeRequest_pcnt : s.consumeRequest.pcnt = s.pcnt := rfl
@[simp] theorem State.consumeRequest_buf : s.consumeRequest.buf = s.buf := rfl
@[simp] theorem State.consumeRequest_status : s.consumeRequest.status = s.status := rfl
@[simp] theorem State.consumeRequest_remaining : s.consumeRequest.remaining = s.remaining := rfl
@[simp] theorem State.consumeRequest_done : s.consumeRequest.done = s.done := rfl
@[simp] theorem State.consumeRequest_claims : s.consumeRequest.claims = s.claims := rfl
@[simp] theorem State.consumeRequest_registryPort : s.consumeRequest.registryPort = s.registryPort := rfl
@[simp] theorem State.consumeRequest_rx : s.consumeRequest.rx = s.rx := rfl
@[simp] theorem State.consumeRequest_ports : s.consumeRequest.ports = s.ports := rfl
@[simp] theorem State.consumeRequest_host : s.consumeRequest.host = s.host.tail := rfl
@[simp] theorem State.consumeRequest_resetLine : s.consumeRequest.resetLine = s.resetLine := rfl
@[simp] theorem State.consumeRequest_oracle : s.consumeRequest.oracle = s.oracle := rfl
@[simp] theorem State.consumeRequest_trace : s.consumeRequest.trace = s.trace := rfl

end consumeRequestFields

section raiseFields

@[simp] theorem State.raise_cfg (c : Status) (i : Nat) : (s.raise c i).cfg = s.cfg := rfl
@[simp] theorem State.raise_st (c : Status) (i : Nat) : (s.raise c i).st = .idle := rfl
@[simp] theorem State.raise_op (c : Status) (i : Nat) : (s.raise c i).op = s.op := rfl
@[simp] theorem State.raise_bus (c : Status) (i : Nat) : (s.raise c i).bus = s.bus := rfl
@[simp] theorem State.raise_a7 (c : Status) (i : Nat) : (s.raise c i).a7 = s.a7 := rfl
@[simp] theorem State.raise_len (c : Status) (i : Nat) : (s.raise c i).len = s.len := rfl
@[simp] theorem State.raise_idx (c : Status) (i : Nat) : (s.raise c i).idx = s.idx := rfl
@[simp] theorem State.raise_pcnt (c : Status) (i : Nat) : (s.raise c i).pcnt = s.pcnt := rfl
@[simp] theorem State.raise_buf (c : Status) (i : Nat) : (s.raise c i).buf = s.buf := rfl
@[simp] theorem State.raise_status (c : Status) (i : Nat) : (s.raise c i).status = c := rfl
@[simp] theorem State.raise_remaining (c : Status) (i : Nat) : (s.raise c i).remaining = i := rfl
@[simp] theorem State.raise_done (c : Status) (i : Nat) : (s.raise c i).done = true := rfl
@[simp] theorem State.raise_claims (c : Status) (i : Nat) : (s.raise c i).claims = s.claims := rfl
@[simp] theorem State.raise_registryPort (c : Status) (i : Nat) : (s.raise c i).registryPort = s.registryPort := rfl
@[simp] theorem State.raise_rx (c : Status) (i : Nat) : (s.raise c i).rx = s.rx := rfl
@[simp] theorem State.raise_ports (c : Status) (i : Nat) : (s.raise c i).ports = s.ports := rfl
@[simp] theorem State.raise_host (c : Status) (i : Nat) : (s.raise c i).host = s.host := rfl
@[simp] theorem State.raise_resetLine (c : Status) (i : Nat) : (s.raise c i).resetLine = s.resetLine := rfl
@[simp] theorem State.raise_oracle (c : Status) (i : Nat) : (s.raise c i).oracle = s.oracle := rfl
@[simp] theorem State.raise_trace (c : Status) (i : Nat) : (s.raise c i).trace = s.trace := rfl

end raiseFields

section completeOkFields

@[simp] theorem State.completeOk_cfg : s.completeOk.cfg = s.cfg := rfl
@[simp] theorem State.completeOk_st : s.completeOk.st = .idle := rfl
@[simp] theorem State.completeOk_op : s.completeOk.op = s.op := rfl
@[simp] theorem State.completeOk_bus : s.completeOk.bus = s.bus := rfl
@[simp] theorem State.completeOk_a7 : s.completeOk.a7 = s.a7 := rfl
@[simp] theorem State.completeOk_len : s.completeOk.len = s.len := rfl
@[simp] theorem State.completeOk_idx : s.completeOk.idx = s.idx := rfl
@[simp] theorem State.completeOk_pcnt : s.completeOk.pcnt = s.pcnt := rfl
@[simp] theorem State.completeOk_buf : s.completeOk.buf = s.buf := rfl
@[simp] theorem State.completeOk_status : s.completeOk.status = .ok := rfl
@[simp] theorem State.completeOk_remaining : s.completeOk.remaining = 0 := rfl
@[simp] theorem State.completeOk_done : s.completeOk.done = true := rfl
@[simp] theorem State.completeOk_claims : s.completeOk.claims = s.claims := rfl
@[simp] theorem State.completeOk_registryPort : s.completeOk.registryPort = s.registryPort := rfl
@[simp] theorem State.completeOk_rx : s.completeOk.rx = s.rx := rfl
@[simp] theorem State.completeOk_ports : s.completeOk.ports = s.ports := rfl
@[simp] theorem State.completeOk_host : s.completeOk.host = s.host := rfl
@[simp] theorem State.completeOk_resetLine : s.completeOk.resetLine = s.resetLine := rfl
@[simp] theorem State.completeOk_oracle : s.completeOk.oracle = s.oracle := rfl
@[simp] theorem State.completeOk_trace : s.completeOk.trace = s.trace := rfl

end completeOkFields

section setUnsettledFields

@[simp] theorem State.setUnsettled_cfg (b : BusIndex) (u : Bool) : (s.setUnsettled b u).cfg = s.cfg := rfl
@[simp] theorem State.setUnsettled_st (b : BusIndex) (u : Bool) : (s.setUnsettled b u).st = s.st := rfl
@[simp] theorem State.setUnsettled_op (b : BusIndex) (u : Bool) : (s.setUnsettled b u).op = s.op := rfl
@[simp] theorem State.setUnsettled_bus (b : BusIndex) (u : Bool) : (s.setUnsettled b u).bus = s.bus := rfl
@[simp] theorem State.setUnsettled_a7 (b : BusIndex) (u : Bool) : (s.setUnsettled b u).a7 = s.a7 := rfl
@[simp] theorem State.setUnsettled_len (b : BusIndex) (u : Bool) : (s.setUnsettled b u).len = s.len := rfl
@[simp] theorem State.setUnsettled_idx (b : BusIndex) (u : Bool) : (s.setUnsettled b u).idx = s.idx := rfl
@[simp] theorem State.setUnsettled_pcnt (b : BusIndex) (u : Bool) : (s.setUnsettled b u).pcnt = s.pcnt := rfl
@[simp] theorem State.setUnsettled_buf (b : BusIndex) (u : Bool) : (s.setUnsettled b u).buf = s.buf := rfl
@[simp] theorem State.setUnsettled_status (b : BusIndex) (u : Bool) : (s.setUnsettled b u).status = s.status := rfl
@[simp] theorem State.setUnsettled_remaining (b : BusIndex) (u : Bool) : (s.setUnsettled b u).remaining = s.remaining := rfl
@[simp] theorem State.setUnsettled_done (b : BusIndex) (u : Bool) : (s.setUnsettled b u).done = s.done := rfl
@[simp] theorem State.setUnsettled_claims (b : BusIndex) (u : Bool) : (s.setUnsettled b u).claims = s.claims := rfl
@[simp] theorem State.setUnsettled_registryPort (b : BusIndex) (u : Bool) : (s.setUnsettled b u).registryPort = s.registryPort := rfl
@[simp] theorem State.setUnsettled_rx (b : BusIndex) (u : Bool) : (s.setUnsettled b u).rx = s.rx := rfl
@[simp] theorem State.setUnsettled_ports (b : BusIndex) (u : Bool) : (s.setUnsettled b u).ports = (s.setPort b { s.port b with unsettled := u }).ports := rfl
@[simp] theorem State.setUnsettled_host (b : BusIndex) (u : Bool) : (s.setUnsettled b u).host = s.host := rfl
@[simp] theorem State.setUnsettled_resetLine (b : BusIndex) (u : Bool) : (s.setUnsettled b u).resetLine = s.resetLine := rfl
@[simp] theorem State.setUnsettled_oracle (b : BusIndex) (u : Bool) : (s.setUnsettled b u).oracle = s.oracle := rfl
@[simp] theorem State.setUnsettled_trace (b : BusIndex) (u : Bool) : (s.setUnsettled b u).trace = s.trace := rfl

end setUnsettledFields

section latchFields

@[simp] theorem State.latch_cfg (o : Op) (b : BusIndex) (x : BitVec 8) (n : Nat) (st : SeqState) : (s.latch o b x n st).cfg = s.cfg := rfl
@[simp] theorem State.latch_st (o : Op) (b : BusIndex) (x : BitVec 8) (n : Nat) (st : SeqState) : (s.latch o b x n st).st = st := rfl
@[simp] theorem State.latch_op (o : Op) (b : BusIndex) (x : BitVec 8) (n : Nat) (st : SeqState) : (s.latch o b x n st).op = o := rfl
@[simp] theorem State.latch_bus (o : Op) (b : BusIndex) (x : BitVec 8) (n : Nat) (st : SeqState) : (s.latch o b x n st).bus = b := rfl
@[simp] theorem State.latch_a7 (o : Op) (b : BusIndex) (x : BitVec 8) (n : Nat) (st : SeqState) : (s.latch o b x n st).a7 = targetAddress x := rfl
@[simp] theorem State.latch_len (o : Op) (b : BusIndex) (x : BitVec 8) (n : Nat) (st : SeqState) : (s.latch o b x n st).len = n := rfl
@[simp] theorem State.latch_idx (o : Op) (b : BusIndex) (x : BitVec 8) (n : Nat) (st : SeqState) : (s.latch o b x n st).idx = 0 := rfl
@[simp] theorem State.latch_pcnt (o : Op) (b : BusIndex) (x : BitVec 8) (n : Nat) (st : SeqState) : (s.latch o b x n st).pcnt = 0 := rfl
@[simp] theorem State.latch_buf (o : Op) (b : BusIndex) (x : BitVec 8) (n : Nat) (st : SeqState) : (s.latch o b x n st).buf = s.buf := rfl
@[simp] theorem State.latch_status (o : Op) (b : BusIndex) (x : BitVec 8) (n : Nat) (st : SeqState) : (s.latch o b x n st).status = s.status := rfl
@[simp] theorem State.latch_remaining (o : Op) (b : BusIndex) (x : BitVec 8) (n : Nat) (st : SeqState) : (s.latch o b x n st).remaining = s.remaining := rfl
@[simp] theorem State.latch_done (o : Op) (b : BusIndex) (x : BitVec 8) (n : Nat) (st : SeqState) : (s.latch o b x n st).done = false := rfl
@[simp] theorem State.latch_claims (o : Op) (b : BusIndex) (x : BitVec 8) (n : Nat) (st : SeqState) : (s.latch o b x n st).claims = s.claims := rfl
@[simp] theorem State.latch_registryPort (o : Op) (b : BusIndex) (x : BitVec 8) (n : Nat) (st : SeqState) : (s.latch o b x n st).registryPort = s.registryPort := rfl
@[simp] theorem State.latch_rx (o : Op) (b : BusIndex) (x : BitVec 8) (n : Nat) (st : SeqState) : (s.latch o b x n st).rx = s.rx := rfl
@[simp] theorem State.latch_ports (o : Op) (b : BusIndex) (x : BitVec 8) (n : Nat) (st : SeqState) : (s.latch o b x n st).ports = s.ports := rfl
@[simp] theorem State.latch_host (o : Op) (b : BusIndex) (x : BitVec 8) (n : Nat) (st : SeqState) : (s.latch o b x n st).host = s.host := rfl
@[simp] theorem State.latch_resetLine (o : Op) (b : BusIndex) (x : BitVec 8) (n : Nat) (st : SeqState) : (s.latch o b x n st).resetLine = s.resetLine := rfl
@[simp] theorem State.latch_oracle (o : Op) (b : BusIndex) (x : BitVec 8) (n : Nat) (st : SeqState) : (s.latch o b x n st).oracle = s.oracle := rfl
@[simp] theorem State.latch_trace (o : Op) (b : BusIndex) (x : BitVec 8) (n : Nat) (st : SeqState) : (s.latch o b x n st).trace = s.trace := rfl

end latchFields

section exhaustClaimFields

@[simp] theorem State.exhaustClaim_cfg : s.exhaustClaim.cfg = s.cfg := rfl
@[simp] theorem State.exhaustClaim_st : s.exhaustClaim.st = s.st := rfl
@[simp] theorem State.exhaustClaim_op : s.exhaustClaim.op = s.op := rfl
@[simp] theorem State.exhaustClaim_bus : s.exhaustClaim.bus = s.bus := rfl
@[simp] theorem State.exhaustClaim_a7 : s.exhaustClaim.a7 = s.a7 := rfl
@[simp] theorem State.exhaustClaim_len : s.exhaustClaim.len = s.len := rfl
@[simp] theorem State.exhaustClaim_idx : s.exhaustClaim.idx = s.idx := rfl
@[simp] theorem State.exhaustClaim_pcnt : s.exhaustClaim.pcnt = s.pcnt := rfl
@[simp] theorem State.exhaustClaim_buf : s.exhaustClaim.buf = s.buf := rfl
@[simp] theorem State.exhaustClaim_status : s.exhaustClaim.status = s.status := rfl
@[simp] theorem State.exhaustClaim_remaining : s.exhaustClaim.remaining = s.remaining := rfl
@[simp] theorem State.exhaustClaim_done : s.exhaustClaim.done = s.done := rfl
@[simp] theorem State.exhaustClaim_claims : s.exhaustClaim.claims = s.claims := rfl
@[simp] theorem State.exhaustClaim_registryPort : s.exhaustClaim.registryPort = some (formatS .resourceExhausted 0) := rfl
@[simp] theorem State.exhaustClaim_rx : s.exhaustClaim.rx = s.rx := rfl
@[simp] theorem State.exhaustClaim_ports : s.exhaustClaim.ports = s.ports := rfl
@[simp] theorem State.exhaustClaim_host : s.exhaustClaim.host = s.host := rfl
@[simp] theorem State.exhaustClaim_resetLine : s.exhaustClaim.resetLine = s.resetLine := rfl
@[simp] theorem State.exhaustClaim_oracle : s.exhaustClaim.oracle = s.oracle := rfl
@[simp] theorem State.exhaustClaim_trace : s.exhaustClaim.trace = s.trace := rfl

end exhaustClaimFields

section applyResetFields

@[simp] theorem State.applyReset_cfg : s.applyReset.cfg = s.cfg := rfl
@[simp] theorem State.applyReset_st : s.applyReset.st = .idle := rfl
@[simp] theorem State.applyReset_op : s.applyReset.op = .send := rfl
@[simp] theorem State.applyReset_bus : s.applyReset.bus = 0 := rfl
@[simp] theorem State.applyReset_a7 : s.applyReset.a7 = 0 := rfl
@[simp] theorem State.applyReset_len : s.applyReset.len = 0 := rfl
@[simp] theorem State.applyReset_idx : s.applyReset.idx = 0 := rfl
@[simp] theorem State.applyReset_pcnt : s.applyReset.pcnt = 0 := rfl
@[simp] theorem State.applyReset_buf : s.applyReset.buf = [] := rfl
@[simp] theorem State.applyReset_status : s.applyReset.status = .ok := rfl
@[simp] theorem State.applyReset_remaining : s.applyReset.remaining = 0 := rfl
@[simp] theorem State.applyReset_done : s.applyReset.done = false := rfl
@[simp] theorem State.applyReset_claims : s.applyReset.claims = 0 := rfl
@[simp] theorem State.applyReset_registryPort : s.applyReset.registryPort = none := rfl
@[simp] theorem State.applyReset_rx : s.applyReset.rx = s.rx := rfl
@[simp] theorem State.applyReset_ports : s.applyReset.ports = if s.st = .idle then s.ports else (s.setUnsettled s.bus true).ports := rfl
@[simp] theorem State.applyReset_host : s.applyReset.host = s.host := rfl
@[simp] theorem State.applyReset_resetLine : s.applyReset.resetLine = false := rfl
@[simp] theorem State.applyReset_oracle : s.applyReset.oracle = s.oracle := rfl
@[simp] theorem State.applyReset_trace : s.applyReset.trace = [] := rfl

end applyResetFields

end Sys2Proof.Machine
end

