-- ==== Sys2Proof/Laws/Ops.lean ====
section
/-! SUPPORT. One lemma per shared operation that says everything it can do: ports, claimed and known idle, admission,
emission, frame control, the two ends of a phase. -/

namespace Sys2Proof.Machine

theorem State.port_setPort (s : State) (b c : BusIndex) (p : Port) :
    (s.setPort b p).port c = if c = b then p else s.port c := by
  unfold State.port State.setPort
  by_cases h : c = b
  · subst h; simp
  · have : b.toNat ≠ c.toNat := fun e => h (BitVec.eq_of_toNat_eq e.symm)
    simp [h, this]

@[simp] theorem State.port_setPort_same (s : State) (b : BusIndex) (p : Port) : (s.setPort b p).port b = p := by
  simp [State.port_setPort]

theorem State.port_setUnsettled (s : State) (b c : BusIndex) (u : Bool) :
    (s.setUnsettled b u).port c = if c = b then { s.port b with unsettled := u } else s.port c :=
  s.port_setPort b c _

/-- A port depends on the field `ports` alone. -/
theorem State.port_congr {s t : State} (h : s.ports = t.ports) (b : BusIndex) : s.port b = t.port b := by
  unfold State.port; simp [h]

/-- A state whose ports are those of `s` with one replaced: the others are as in `s`. -/
theorem State.port_of_setPort_other {s t : State} {b c : BusIndex} (p : Port) (h : t.ports = (s.setPort b p).ports)
    (hc : c ≠ b) : t.port c = s.port c := by
  rw [State.port_congr h, State.port_setPort, if_neg hc]

theorem State.port_of_setPort_same {s t : State} {b : BusIndex} (p : Port) (h : t.ports = (s.setPort b p).ports) :
    t.port b = p := by
  rw [State.port_congr h, State.port_setPort_same]

@[simp] theorem State.claimed_iff (s : State) (b : BusIndex) : s.claimed b = true ↔ b.toNat < s.claims.toNat := by
  simp [State.claimed]

theorem State.knownIdle_iff (s : State) (b : BusIndex) :
    s.knownIdle b = true ↔ s.claimed b = true ∧ (s.port b).unsettled = false := by
  simp [State.knownIdle]

/-- After the port of a claimed bus is written as settled, the bus is known idle. -/
theorem State.knownIdle_of_setPort {s t : State} {b : BusIndex} {p : Port} (hc : t.claims = s.claims)
    (hp : t.ports = (s.setPort b p).ports) (hb : s.claimed b = true) (hu : p.unsettled = false) :
    t.knownIdle b = true := by
  rw [State.knownIdle_iff, State.port_congr hp, State.port_setPort_same, State.claimed_iff, hc]
  exact ⟨(State.claimed_iff s b).1 hb, hu⟩

/-- Admission (R170 to R172): a next state means `IDLE`, a claimed handle, and the operation's own answer. -/
theorem State.admitting_next {s t : State} {b : BusIndex} {o : Host.Outcome State Fault Refusal} :
    s.admitting b o = .next t ↔ s.st = .idle ∧ s.claimed b = true ∧ o = .next t := by
  unfold State.admitting
  split
  · split <;> simp [*]
  · simp [*]

/-- Emission (R33): a next state means that the state machine names this micro-operation, and its own answer. -/
theorem State.emitting_next {s t : State} {i : Instr} {o : Host.Outcome State Fault Refusal} :
    s.emitting i o = .next t ↔ s.namedOp = .next i ∧ o = .next t := by
  unfold State.emitting
  split
  · next j h => split <;> simp_all
  · simp_all
  · simp_all

theorem State.emitting_named {s : State} {i : Instr} {o : Host.Outcome State Fault Refusal} (h : s.namedOp = .next i) :
    s.emitting i o = o := by
  simp [State.emitting, h]

theorem State.emittingKnownIdle_next {s t : State} {i : Instr} {o : Host.Outcome State Fault Refusal} :
    s.emittingKnownIdle i o = .next t ↔ s.namedOp = .next i ∧ s.knownIdle s.bus = true ∧ o = .next t := by
  unfold State.emittingKnownIdle
  rw [State.emitting_next]
  split <;> simp [*]

theorem State.emittingKnownIdle_named {s : State} {i : Instr} {o : Host.Outcome State Fault Refusal}
    (h : s.namedOp = .next i) :
    s.emittingKnownIdle i o = if s.knownIdle s.bus then o else .fault .busNotKnownIdle :=
  State.emitting_named h

theorem CmdKind.instr_injective {j k : CmdKind} (h : j.instr = k.instr) : j = k := by
  cases j <;> cases k <;> first | rfl | simp [CmdKind.instr] at h

@[simp] theorem commandOp_next {k : Option CmdKind} {i : Instr} :
    commandOp k = .next i ↔ ∃ j, k = some j ∧ j.instr = i := by
  cases k <;> simp [commandOp]

theorem sendKind_isSome {len idx : Nat} (h : idx < len) (h2 : len ≤ 30) : ∃ k, sendKind len idx = some k := by
  simp only [sendKind, Config.txMax, framePlace]
  repeat (first | exact ⟨_, rfl⟩ | split | omega)

theorem recvKind_isSome {w : Widths} {len idx : Nat} (h : idx < len) (h2 : len ≤ w.rxMax) :
    ∃ k, recvKind w len idx = some k := by
  simp only [recvKind, framePlace]
  repeat (first | exact ⟨_, rfl⟩ | split | omega)

/-- The kinds of a send are 0..3, so that its wait is `S_POLL` (R79, R104, R106). -/
theorem sendKind_waitState {len idx : Nat} {k : CmdKind} (h : sendKind len idx = some k) : waitAfter k = .sPoll := by
  simp only [sendKind, framePlace] at h
  repeat' split at h
  all_goals first | cases h; rfl | cases h

/-- The kinds of a receive are 4..7, so that its wait is `R_POLL` (R79, R123, R124). -/
theorem recvKind_waitState {w : Widths} {len idx : Nat} {k : CmdKind} (h : recvKind w len idx = some k) : waitAfter k = .rPoll := by
  simp only [recvKind, framePlace] at h
  repeat' split at h
  all_goals first | cases h; rfl | cases h

theorem recvKind_domain {w : Widths} {len idx : Nat} {k : CmdKind} (h : recvKind w len idx = some k) : idx < len := by
  simp only [recvKind, framePlace] at h
  split at h <;> [skip; cases h]
  split at h <;> [assumption; cases h]

theorem sendKind_domain {len idx : Nat} {k : CmdKind} (h : sendKind len idx = some k) : idx < len ∧ len ≤ 30 := by
  simp only [sendKind, framePlace] at h
  split at h <;> [skip; cases h]
  split at h <;> [exact ⟨by assumption, by assumption⟩; cases h]

/-- The step of a command answers the same for every kind's own instruction. -/
theorem exec_instr (k : CmdKind) (s : State) : exec k.instr s = s.command k := by cases k <;> rfl

@[simp] theorem State.lastPhase_iff (s : State) : s.lastPhase = true ↔ s.idx + 1 = s.len := by
  simp [State.lastPhase]

theorem State.atPollLimit_iff (s : State) :
    s.atPollLimit = true ↔ s.cfg.pollLimit.samples = some (s.pcnt + 1) := by
  unfold State.atPollLimit
  cases h : s.cfg.pollLimit.samples <;> simp [eq_comm]

end Sys2Proof.Machine
end

