-- ==== Sys2Proof/Laws/Registry.lean ====
section
/-! SUPPORT. What a granted claim leaves (40_claim R93, R94), field by field. -/

namespace Sys2Proof.Machine

variable {s : State}

theorem Config.numBuses_le (c : Config) : c.numBuses ≤ 128 := by unfold Config.numBuses; omega

theorem State.nextHandle_toNat (h : s.claims.toNat < s.cfg.numBuses) : s.nextHandle.toNat = s.claims.toNat := by
  have := Config.numBuses_le s.cfg
  rw [State.nextHandle, BitVec.toNat_setWidth]; omega

theorem State.grantClaim_claims (d c : Nat) (h : s.claims.toNat < s.cfg.numBuses) :
    (s.grantClaim d c).claims.toNat = s.claims.toNat + 1 := by
  have := Config.numBuses_le s.cfg
  show (s.claims + 1).toNat = _
  rw [BitVec.toNat_add]; simp; omega

/-- The result word `{OK, h}` (R80, R93). -/
theorem State.grantClaim_result (d c : Nat) (h : s.claims.toNat < s.cfg.numBuses) :
    (s.grantClaim d c).registryPort = some (BitVec.ofNat 16 s.claims.toNat) := by
  have := Config.numBuses_le s.cfg
  refine congrArg some (BitVec.eq_of_toNat_eq ?_)
  have h8 : (s.nextHandle.setWidth 8).toNat = s.claims.toNat := by
    rw [BitVec.toNat_setWidth, State.nextHandle_toNat h]; omega
  have h16 : formatS .ok (s.nextHandle.setWidth 8) = 0#8 ++ s.nextHandle.setWidth 8 := by
    unfold formatS Status.code; congr 1
  rw [h16, BitVec.toNat_append, h8]; simp; omega

theorem State.grantClaim_port (d c : Nat) (b : BusIndex) :
    (s.grantClaim d c).port b =
      if b = s.nextHandle then (s.port s.nextHandle).setUp d c s.clockAnswer else s.port b :=
  State.port_setPort (s.useClock.log _) s.nextHandle b _

theorem State.grantClaim_trace (d c : Nat) :
    (s.grantClaim d c).trace =
      s.trace ++ claimEvents (s.cfg.descriptor s.nextHandle).periph d c s.clockAnswer s.nextHandle := rfl

/-- Nothing but these fields is written. -/
theorem State.grantClaim_frame (d c : Nat) :
    s.grantClaim d c = { s with
      claims := s.claims + 1
      registryPort := (s.grantClaim d c).registryPort
      ports := (s.grantClaim d c).ports
      oracle := s.useClock.oracle
      trace := (s.grantClaim d c).trace } := rfl

/-! Every field a granted claim does not write. -/

@[simp] theorem State.grantClaim_cfg (d c : Nat) : (s.grantClaim d c).cfg = s.cfg := by
  simp only [State.grantClaim, State.setPort_cfg, State.log_cfg, State.useClock_cfg]

@[simp] theorem State.grantClaim_st (d c : Nat) : (s.grantClaim d c).st = s.st := by
  simp only [State.grantClaim, State.setPort_st, State.log_st, State.useClock_st]

@[simp] theorem State.grantClaim_op (d c : Nat) : (s.grantClaim d c).op = s.op := by
  simp only [State.grantClaim, State.setPort_op, State.log_op, State.useClock_op]

@[simp] theorem State.grantClaim_bus (d c : Nat) : (s.grantClaim d c).bus = s.bus := by
  simp only [State.grantClaim, State.setPort_bus, State.log_bus, State.useClock_bus]

@[simp] theorem State.grantClaim_a7 (d c : Nat) : (s.grantClaim d c).a7 = s.a7 := by
  simp only [State.grantClaim, State.setPort_a7, State.log_a7, State.useClock_a7]

@[simp] theorem State.grantClaim_len (d c : Nat) : (s.grantClaim d c).len = s.len := by
  simp only [State.grantClaim, State.setPort_len, State.log_len, State.useClock_len]

@[simp] theorem State.grantClaim_idx (d c : Nat) : (s.grantClaim d c).idx = s.idx := by
  simp only [State.grantClaim, State.setPort_idx, State.log_idx, State.useClock_idx]

@[simp] theorem State.grantClaim_pcnt (d c : Nat) : (s.grantClaim d c).pcnt = s.pcnt := by
  simp only [State.grantClaim, State.setPort_pcnt, State.log_pcnt, State.useClock_pcnt]

@[simp] theorem State.grantClaim_buf (d c : Nat) : (s.grantClaim d c).buf = s.buf := by
  simp only [State.grantClaim, State.setPort_buf, State.log_buf, State.useClock_buf]

@[simp] theorem State.grantClaim_status (d c : Nat) : (s.grantClaim d c).status = s.status := by
  simp only [State.grantClaim, State.setPort_status, State.log_status, State.useClock_status]

@[simp] theorem State.grantClaim_remaining (d c : Nat) : (s.grantClaim d c).remaining = s.remaining := by
  simp only [State.grantClaim, State.setPort_remaining, State.log_remaining, State.useClock_remaining]

@[simp] theorem State.grantClaim_done (d c : Nat) : (s.grantClaim d c).done = s.done := by
  simp only [State.grantClaim, State.setPort_done, State.log_done, State.useClock_done]

@[simp] theorem State.grantClaim_rx (d c : Nat) : (s.grantClaim d c).rx = s.rx := by
  simp only [State.grantClaim, State.setPort_rx, State.log_rx, State.useClock_rx]

@[simp] theorem State.grantClaim_host (d c : Nat) : (s.grantClaim d c).host = s.host := by
  simp only [State.grantClaim, State.setPort_host, State.log_host, State.useClock_host]

@[simp] theorem State.grantClaim_resetLine (d c : Nat) : (s.grantClaim d c).resetLine = s.resetLine := by
  simp only [State.grantClaim, State.setPort_resetLine, State.log_resetLine, State.useClock_resetLine]

end Sys2Proof.Machine
end

