-- ==== Sys2Proof/Laws/Wait.lean ====
section
/-! SUPPORT. What one sample of the busy flag and one fetch of a byte can do, as whole states (41 R107, 42 R125, R126). -/

namespace Sys2Proof.Machine

variable {s : State}

theorem State.sample_counted (ha : s.pollAnswer = true) (hl : s.atPollLimit = false) :
    s.sample = { s with pcnt := s.pcnt + 1, oracle := s.usePoll.oracle, trace := s.trace ++ [.poll s.bus true] } := by
  have h : (s.usePoll.log [.poll s.bus true]).atPollLimit = false := hl
  rw [State.sample, if_pos ha, State.afterBusy, h]; rfl

theorem State.sample_timeout (ha : s.pollAnswer = true) (hl : s.atPollLimit = true) :
    s.sample = { s with
      st := .idle
      status := .busTimeout
      remaining := s.len - s.idx
      done := true
      oracle := s.usePoll.oracle
      trace := s.trace ++ [.poll s.bus true] } := by
  have h : (s.usePoll.log [.poll s.bus true]).atPollLimit = true := hl
  rw [State.sample, if_pos ha, State.afterBusy, h]; rfl

theorem State.sample_idle (ha : s.pollAnswer = false) :
    s.sample = ((s.usePoll.log [.poll s.bus false]).setUnsettled s.bus false).afterIdle := by
  rw [State.sample, if_neg (by simp [ha])]

theorem State.sample_next_phase (ha : s.pollAnswer = false) (hs : s.st = .sPoll) (hl : s.idx + 1 ≠ s.len) :
    s.sample = { s with
      st := .sPut
      idx := s.idx + 1
      oracle := s.usePoll.oracle
      trace := s.trace ++ [.poll s.bus false]
      ports := (s.setPort s.bus { s.port s.bus with unsettled := false }).ports } := by
  have h : ¬ ((s.usePoll.log [.poll s.bus false]).setUnsettled s.bus false).lastPhase = true := by
    rw [State.lastPhase_iff]; exact hl
  have hs' : ((s.usePoll.log [.poll s.bus false]).setUnsettled s.bus false).st = .sPoll := hs
  rw [State.sample_idle ha, State.afterIdle, if_pos hs', State.endPhase, if_neg h]; rfl

theorem State.sample_last_phase (ha : s.pollAnswer = false) (hs : s.st = .sPoll) (hl : s.idx + 1 = s.len) :
    s.sample = { s with
      st := .idle
      idx := s.idx + 1
      status := .ok
      remaining := 0
      done := true
      oracle := s.usePoll.oracle
      trace := s.trace ++ [.poll s.bus false]
      ports := (s.setPort s.bus { s.port s.bus with unsettled := false }).ports } := by
  have h : ((s.usePoll.log [.poll s.bus false]).setUnsettled s.bus false).lastPhase = true := by
    rw [State.lastPhase_iff]; exact hl
  have hs' : ((s.usePoll.log [.poll s.bus false]).setUnsettled s.bus false).st = .sPoll := hs
  rw [State.sample_idle ha, State.afterIdle, if_pos hs', State.endPhase, if_pos h]; rfl

theorem State.sample_to_get (ha : s.pollAnswer = false) (hs : s.st = .rPoll) :
    s.sample = { s with
      st := .rGet
      oracle := s.usePoll.oracle
      trace := s.trace ++ [.poll s.bus false]
      ports := (s.setPort s.bus { s.port s.bus with unsettled := false }).ports } := by
  have h : ¬ ((s.usePoll.log [.poll s.bus false]).setUnsettled s.bus false).st = .sPoll := by simp [hs]
  rw [State.sample_idle ha, State.afterIdle, if_neg h]; rfl

theorem State.fetchByte_next_phase (hl : s.idx + 1 ≠ s.len) :
    s.fetchByte = { s with
      st := .rCmd
      idx := s.idx + 1
      oracle := s.useGet.oracle
      trace := s.trace ++ [.get s.bus s.getAnswer]
      rx := s.rx.write s.idx s.getAnswer } := by
  have h : ¬ ((s.useGet.log [.get s.bus s.getAnswer]).rxWrite s.idx s.getAnswer).lastPhase = true := by
    rw [State.lastPhase_iff]; exact hl
  rw [State.fetchByte, State.endPhase, if_neg h]; rfl

theorem State.fetchByte_last_phase (hl : s.idx + 1 = s.len) :
    s.fetchByte = { s with
      st := .idle
      idx := s.idx + 1
      status := .ok
      remaining := 0
      done := true
      oracle := s.useGet.oracle
      trace := s.trace ++ [.get s.bus s.getAnswer]
      rx := s.rx.write s.idx s.getAnswer } := by
  have h : ((s.useGet.log [.get s.bus s.getAnswer]).rxWrite s.idx s.getAnswer).lastPhase = true := by
    rw [State.lastPhase_iff]; exact hl
  rw [State.fetchByte, State.endPhase, if_pos h]; rfl

end Sys2Proof.Machine
end

