-- ==== Sys2Proof/Laws/Step.lean ====
section
/-! SUPPORT. What a step can do, said once: one equation per state of the machine, one lemma for an accepted operation, and
the runs of several steps. -/

namespace Sys2Proof.Machine

theorem State.namedOp_isMicro {s : State} {i : Instr} (h : s.namedOp = .next i) : Safety.IsMicro i = true := by
  unfold State.namedOp at h
  split at h
  · cases h
  · cases h; rfl
  · split at h <;> [(cases h; rfl); cases h; cases h]
  · obtain ⟨k, -, rfl⟩ := commandOp_next.1 h; cases k <;> rfl
  · cases h; rfl
  · cases h; rfl
  · obtain ⟨k, -, rfl⟩ := commandOp_next.1 h; cases k <;> rfl
  · cases h; rfl
  · cases h; rfl

theorem step_reset {s : State} (h : s.resetLine = true) : step s = .next s.applyReset := by simp [step, h]

theorem step_quiet {s : State} (hr : s.resetLine = false) (hi : s.st = .idle) (hh : s.host = []) :
    step s = .next s := by
  simp [step, hr, State.fetch, hi, hh]

/-- In `IDLE` the presented request is decoded and executed. -/
theorem step_request {s : State} {r : Request} {rest : List Request} (hr : s.resetLine = false) (hi : s.st = .idle)
    (hh : s.host = r :: rest) :
    step s = match decode s.cfg.widths (.request r) with
      | .ok i => exec i s
      | .reject e => .refused (.badEncoding e) := by
  have hf : s.fetch = .next (some (.request r)) := by simp [State.fetch, hi, hh]
  cases h : decode s.cfg.widths (.request r) <;> simp [step, hr, hf, h]

/-- In a transaction the named micro-operation is executed. -/
theorem step_running {s : State} (hr : s.resetLine = false) (hi : s.st ≠ .idle) :
    step s = match s.namedOp with
      | .next i => exec i s
      | .fault f => .fault f
      | .refused r => .refused r := by
  have hf : s.fetch = match s.namedOp with
      | .next i => .next (some (encode s.cfg.widths i))
      | .fault f => .fault f
      | .refused r => .refused r := by
    unfold State.fetch
    split
    · next h => exact absurd h hi
    · rfl
  simp only [step, hr, hf]
  cases h : s.namedOp with
  | next i => simp [decode_encode_micro _ (State.namedOp_isMicro h)]
  | fault f => rfl
  | refused r => rfl

theorem step_named {s : State} {i : Instr} (hr : s.resetLine = false) (hi : s.st ≠ .idle) (h : s.namedOp = .next i) :
    step s = exec i s := by
  rw [step_running hr hi, h]

/-- A step inside a transaction that answers a next state is the meaning of the micro-operation named there. -/
theorem step_next_named {s t : State} (hr : s.resetLine = false) (hi : s.st ≠ .idle) (h : step s = .next t) :
    ∃ i, s.namedOp = .next i ∧ exec i s = .next t := by
  rw [step_running hr hi] at h
  cases hn : s.namedOp with
  | next i => rw [hn] at h; exact ⟨i, rfl, h⟩
  | fault f => rw [hn] at h; cases h
  | refused r => rw [hn] at h; cases h

theorem step_sAddr {s : State} (hr : s.resetLine = false) (h : s.st = .sAddr) :
    step s = if s.knownIdle s.bus then .next { s.programAddress s.a7 false with st := .sPut }
      else .fault .busNotKnownIdle := by
  have hn : s.namedOp = .next (.addrSet s.a7 false) := by simp [State.namedOp, h]
  rw [step_named hr (by simp [h]) hn]
  exact State.emittingKnownIdle_named hn

theorem step_rAddr {s : State} (hr : s.resetLine = false) (h : s.st = .rAddr) :
    step s = if s.knownIdle s.bus then .next { s.programAddress s.a7 true with st := .rCmd }
      else .fault .busNotKnownIdle := by
  have hn : s.namedOp = .next (.addrSet s.a7 true) := by simp [State.namedOp, h]
  rw [step_named hr (by simp [h]) hn]
  exact State.emittingKnownIdle_named hn

theorem step_sPut {s : State} {v : Byte} (hr : s.resetLine = false) (h : s.st = .sPut)
    (hv : s.bufRead s.idx = .next v) :
    step s = if s.knownIdle s.bus then
        .next { (s.log [.put s.bus v]).setPort s.bus { s.port s.bus with data := v } with st := .sCmd }
      else .fault .busNotKnownIdle := by
  have hn : s.namedOp = .next (.put v) := by simp [State.namedOp, h, hv]
  rw [step_named hr (by simp [h]) hn]
  exact State.emittingKnownIdle_named hn

theorem step_sCmd {s : State} {k : CmdKind} (hr : s.resetLine = false) (h : s.st = .sCmd)
    (hk : sendKind s.len s.idx = some k) :
    step s = if s.knownIdle s.bus then .next (s.issue k) else .fault .busNotKnownIdle := by
  have hn : s.namedOp = .next k.instr := by simp [State.namedOp, h, hk]
  rw [step_named hr (by simp [h]) hn, exec_instr]
  exact State.emittingKnownIdle_named hn

theorem step_rCmd {s : State} {k : CmdKind} (hr : s.resetLine = false) (h : s.st = .rCmd)
    (hk : recvKind s.cfg.widths s.len s.idx = some k) :
    step s = if s.knownIdle s.bus then .next (s.issue k) else .fault .busNotKnownIdle := by
  have hn : s.namedOp = .next k.instr := by simp [State.namedOp, h, hk]
  rw [step_named hr (by simp [h]) hn, exec_instr]
  exact State.emittingKnownIdle_named hn

theorem step_poll {s : State} (hr : s.resetLine = false) (h : s.st = .sPoll ∨ s.st = .rPoll) :
    step s = .next s.sample := by
  have hn : s.namedOp = .next .poll := by rcases h with h | h <;> simp [State.namedOp, h]
  rw [step_named hr (by rcases h with h | h <;> simp [h]) hn]
  exact State.emitting_named hn

theorem step_rGet {s : State} (hr : s.resetLine = false) (h : s.st = .rGet) :
    step s = if s.knownIdle s.bus then
        (if s.idx < s.len then .next s.fetchByte else .fault .rxOutOfRange)
      else .fault .busNotKnownIdle := by
  have hn : s.namedOp = .next .get := by simp [State.namedOp, h]
  rw [step_named hr (by simp [h]) hn]
  exact State.emittingKnownIdle_named hn

/-- THE INVERSION of a step outside reset: what a next state can be. -/
theorem step_cases {s t : State} (hr : s.resetLine = false) (h : step s = .next t) :
    (s.st = .idle ∧ s.host = [] ∧ t = s) ∨
    (∃ r rest i, s.st = .idle ∧ s.host = r :: rest ∧ decode s.cfg.widths (.request r) = .ok i ∧ exec i s = .next t) ∨
    (s.st = .sAddr ∧ s.knownIdle s.bus = true ∧ t = { s.programAddress s.a7 false with st := .sPut }) ∨
    (s.st = .rAddr ∧ s.knownIdle s.bus = true ∧ t = { s.programAddress s.a7 true with st := .rCmd }) ∨
    (∃ v, s.st = .sPut ∧ s.bufRead s.idx = .next v ∧ s.knownIdle s.bus = true ∧
      t = { (s.log [.put s.bus v]).setPort s.bus { s.port s.bus with data := v } with st := .sCmd }) ∨
    (∃ k, s.st = .sCmd ∧ sendKind s.len s.idx = some k ∧ s.knownIdle s.bus = true ∧ t = s.issue k) ∨
    (∃ k, s.st = .rCmd ∧ recvKind s.cfg.widths s.len s.idx = some k ∧ s.knownIdle s.bus = true ∧ t = s.issue k) ∨
    ((s.st = .sPoll ∨ s.st = .rPoll) ∧ t = s.sample) ∨
    (s.st = .rGet ∧ s.knownIdle s.bus = true ∧ s.idx < s.len ∧ t = s.fetchByte) := by
  cases hs : s.st with
  | idle =>
    cases hh : s.host with
    | nil => rw [step_quiet hr hs hh] at h; cases h; exact .inl ⟨rfl, rfl, rfl⟩
    | cons r rest =>
      rw [step_request hr hs hh] at h
      cases hd : decode s.cfg.widths (.request r) with
      | ok i => rw [hd] at h; exact .inr (.inl ⟨r, rest, i, rfl, rfl, hd, h⟩)
      | reject e => rw [hd] at h; cases h
  | sAddr => rw [step_sAddr hr hs] at h; split at h <;> cases h; simp_all
  | rAddr => rw [step_rAddr hr hs] at h; split at h <;> cases h; simp_all
  | sPut =>
    obtain ⟨i, hn, -⟩ := step_next_named hr (by simp [hs]) h
    have hv : ∃ v, s.bufRead s.idx = .next v := by
      simp only [State.namedOp, hs] at hn
      split at hn <;> simp_all
    obtain ⟨v, hv⟩ := hv
    rw [step_sPut hr hs hv] at h; split at h <;> cases h; simp_all
  | sCmd =>
    obtain ⟨i, hn, -⟩ := step_next_named hr (by simp [hs]) h
    simp only [State.namedOp, hs, commandOp_next] at hn
    obtain ⟨k, hk, -⟩ := hn
    rw [step_sCmd hr hs hk] at h; split at h <;> cases h; simp_all
  | rCmd =>
    obtain ⟨i, hn, -⟩ := step_next_named hr (by simp [hs]) h
    simp only [State.namedOp, hs, commandOp_next] at hn
    obtain ⟨k, hk, -⟩ := hn
    rw [step_rCmd hr hs hk] at h; split at h <;> cases h; simp_all
  | sPoll => rw [step_poll hr (.inl hs)] at h; cases h; simp
  | rPoll => rw [step_poll hr (.inr hs)] at h; cases h; simp
  | rGet =>
    rw [step_rGet hr hs] at h
    split at h <;> [split at h <;> cases h; cases h]
    simp_all

/-- What the three host operations can answer, once decoded. -/
theorem exec_claim_next {d c : Nat} {s t : State} :
    exec (.claim d c) s = .next t ↔ s.st = .idle ∧
      t = (if s.claims.toNat < s.cfg.numBuses then s.consumeRequest.grantClaim d c
        else s.consumeRequest.exhaustClaim) := by
  show execClaim d c s = _ ↔ _
  unfold execClaim
  by_cases h : s.st = .idle
  · rw [if_pos h, Host.Outcome.next.injEq]; exact ⟨fun e => ⟨h, e.symm⟩, fun e => e.2.symm⟩
  · rw [if_neg h]; exact ⟨fun e => (by cases e), fun e => absurd e.1 h⟩

theorem exec_send_next {b : BusIndex} {a : BitVec 8} {d : List Byte} {s t : State} :
    exec (.send b a d) s = .next t ↔ s.st = .idle ∧ s.claimed b = true ∧ d.length ≤ s.cfg.rxMax ∧
      t = (if sendLengthValid d.length then
          (s.consumeRequest.stage d).latch .send b a (d.length) .sAddr
        else s.consumeRequest.raise .invalidLength (d.length)) := by
  show execSend b a d s = _ ↔ _
  unfold execSend
  rw [State.admitting_next]
  by_cases h : d.length ≤ s.cfg.rxMax
  · rw [if_pos h, Host.Outcome.next.injEq]
    exact ⟨fun e => ⟨e.1, e.2.1, h, e.2.2.symm⟩, fun e => ⟨e.1, e.2.1, e.2.2.2.symm⟩⟩
  · rw [if_neg h]; exact ⟨fun e => (by cases e.2.2), fun e => absurd e.2.2.1 h⟩

theorem exec_receive_next {b : BusIndex} {a : BitVec 8} {n : Nat} {s t : State} :
    exec (.receive b a n) s = .next t ↔ s.st = .idle ∧ s.claimed b = true ∧ n ≤ s.cfg.rxMax ∧
      t = (if receiveLengthValid n then s.consumeRequest.latch .receive b a n .rAddr
        else s.consumeRequest.raise .invalidLength n) := by
  show execReceive b a n s = _ ↔ _
  unfold execReceive
  rw [State.admitting_next]
  by_cases h : n ≤ s.cfg.rxMax
  · rw [if_pos h, Host.Outcome.next.injEq]
    exact ⟨fun e => ⟨e.1, e.2.1, h, e.2.2.symm⟩, fun e => ⟨e.1, e.2.1, e.2.2.2.symm⟩⟩
  · rw [if_neg h]; exact ⟨fun e => (by cases e.2.2), fun e => absurd e.2.2.1 h⟩

/-- A request decodes to one of the three host operations. -/
theorem decode_request_cases {w : Widths} {r : Request} {i : Instr} (h : decode w (.request r) = .ok i) :
    (∃ d c, i = .claim d c) ∨ (∃ b a d, i = .send b a d) ∨ (∃ b a n, i = .receive b a n) := by
  cases r with
  | claim word =>
    simp only [decode, decodeClaim] at h
    split at h <;> cases h
    exact .inl ⟨_, _, rfl⟩
  | transfer hd data =>
    simp only [decode, decodeTransfer] at h
    repeat' split at h
    all_goals cases h
    · exact .inr (.inr ⟨_, _, _, rfl⟩)
    · exact .inr (.inl ⟨_, _, _, rfl⟩)

/-- A decoded length is at most `RX_MAX`: it came from `LEN_W` bits (R8, R72). -/
theorem decode_length_fits {w : Widths} {r : Request} {b : BusIndex} {a : BitVec 8} {d : List Byte} {n : Nat}
    (h : decode w (.request r) = .ok (.send b a d) ∧ d.length = n ∨ decode w (.request r) = .ok (.receive b a n)) :
    n ≤ w.rxMax := by
  have hm (x : Nat) : x % 2 ^ w.lenW ≤ w.rxMax := (Widths.le_rxMax_iff w _).2 (Nat.mod_lt _ (Nat.two_pow_pos _))
  cases r with
  | claim word =>
    simp only [decode, decodeClaim] at h
    rcases h with ⟨h, -⟩ | h <;> split at h <;> cases h
  | transfer hd data =>
    simp only [decode, decodeTransfer] at h
    rcases h with ⟨h, rfl⟩ | h <;> repeat' split at h
    all_goals cases h
    · next e => exact e ▸ hm _
    · exact hm _

/-- Frame control is the expansion's kind, on the whole domain of a send (R104, R110). -/
theorem sendKind_expansion {n i : Nat} (h : i < n) (h30 : n ≤ 30) :
    sendKind n i = some (Safety.expansionKind .singleSend .burstStart .burstContinue .burstFinish n i) := by
  simp only [sendKind, framePlace, Safety.expansionKind, Config.txMax]
  repeat' split
  all_goals first | rfl | omega

/-- Frame control is the expansion's kind, on the whole domain of a receive (R123, R129). -/
theorem recvKind_expansion {w : Widths} {n i : Nat} (h : i < n) (hmax : n ≤ w.rxMax) :
    recvKind w n i = some
      (Safety.expansionKind .singleReceive .burstReceiveStart .burstReceiveContinue .burstReceiveFinish n i) := by
  simp only [recvKind, framePlace, Safety.expansionKind]
  repeat' split
  all_goals first | rfl | omega

end Sys2Proof.Machine

namespace Sys2Proof.Safety

open Sys2Proof.Machine

theorem run_succ {s t : State} (k : Nat) (h : step s = .next t) : run (k + 1) s = run k t := by
  simp [run, h]

theorem run_add {s t : State} {j : Nat} (k : Nat) (h : run j s = .next t) : run (j + k) s = run k t := by
  induction j generalizing s with
  | zero => cases h; simp
  | succ j ih =>
    simp only [run] at h
    split at h
    · next u hu => rw [Nat.add_right_comm, run_succ _ hu]; exact ih h
    · cases h
    · cases h

end Sys2Proof.Safety
end

