-- ==== Sys2Proof/Laws/Forms.lean ====
section
/-! SUPPORT. THE INVERSION of a step outside reset: one named case per row of the transition table (10 R33), each with the
whole next state. Every invariant and every whole-machine rule follows from these cases. -/

namespace Sys2Proof.Machine

/-- What a step that answers `t` can have done. -/
inductive StepForm (s t : State) : Prop where
  | quiet (st : s.st = .idle) (host : s.host = []) (next : t = s)
  | claimGranted (d c : Nat) (st : s.st = .idle) (room : s.claims.toNat < s.cfg.numBuses)
      (next : t = s.consumeRequest.grantClaim d c)
  | claimExhausted (st : s.st = .idle) (full : s.cfg.numBuses ≤ s.claims.toNat)
      (next : t = s.consumeRequest.exhaustClaim)
  | sendInvalid (d : List Byte) (st : s.st = .idle) (len : d.length = 0 ∨ 30 < d.length)
      (fits : d.length ≤ s.cfg.rxMax)
      (next : t = s.consumeRequest.raise .invalidLength (d.length))
  | sendAccepted (b : BusIndex) (a : BitVec 8) (d : List Byte) (st : s.st = .idle) (claimed : s.claimed b = true)
      (len : 1 ≤ d.length ∧ d.length ≤ 30) (fits : d.length ≤ s.cfg.rxMax)
      (next : t = (s.consumeRequest.stage d).latch .send b a (d.length) .sAddr)
  | receiveInvalid (st : s.st = .idle) (next : t = s.consumeRequest.raise .invalidLength 0)
  | receiveAccepted (b : BusIndex) (a : BitVec 8) (n : Nat) (st : s.st = .idle) (claimed : s.claimed b = true)
      (len : 1 ≤ n) (fits : n ≤ s.cfg.rxMax) (next : t = s.consumeRequest.latch .receive b a n .rAddr)
  | addressSend (st : s.st = .sAddr) (idle : s.knownIdle s.bus = true)
      (next : t = { s.programAddress s.a7 false with st := .sPut })
  | addressReceive (st : s.st = .rAddr) (idle : s.knownIdle s.bus = true)
      (next : t = { s.programAddress s.a7 true with st := .rCmd })
  | put (v : Byte) (st : s.st = .sPut) (byte : s.bufRead s.idx = .next v) (idle : s.knownIdle s.bus = true)
      (next : t = { (s.log [.put s.bus v]).setPort s.bus { s.port s.bus with data := v } with st := .sCmd })
  | commandSend (k : CmdKind) (st : s.st = .sCmd) (kind : sendKind s.len s.idx = some k)
      (idle : s.knownIdle s.bus = true) (next : t = s.issue k)
  | commandReceive (k : CmdKind) (st : s.st = .rCmd) (kind : recvKind s.cfg.widths s.len s.idx = some k)
      (idle : s.knownIdle s.bus = true) (next : t = s.issue k)
  | busyCounted (st : s.st = .sPoll ∨ s.st = .rPoll) (answer : s.pollAnswer = true) (limit : s.atPollLimit = false)
      (next : t = { s with
        pcnt := s.pcnt + 1
        oracle := s.usePoll.oracle
        trace := s.trace ++ [.poll s.bus true] })
  | timeout (st : s.st = .sPoll ∨ s.st = .rPoll) (answer : s.pollAnswer = true) (limit : s.atPollLimit = true)
      (next : t = { s with
        st := .idle
        status := .busTimeout
        remaining := s.len - s.idx
        done := true
        oracle := s.usePoll.oracle
        trace := s.trace ++ [.poll s.bus true] })
  | sendPhaseEnds (st : s.st = .sPoll) (answer : s.pollAnswer = false) (more : s.idx + 1 ≠ s.len)
      (next : t = { s with
        st := .sPut
        idx := s.idx + 1
        oracle := s.usePoll.oracle
        trace := s.trace ++ [.poll s.bus false]
        ports := (s.setPort s.bus { s.port s.bus with unsettled := false }).ports })
  | sendEnds (st : s.st = .sPoll) (answer : s.pollAnswer = false) (last : s.idx + 1 = s.len)
      (next : t = { s with
        st := .idle
        idx := s.idx + 1
        status := .ok
        remaining := 0
        done := true
        oracle := s.usePoll.oracle
        trace := s.trace ++ [.poll s.bus false]
        ports := (s.setPort s.bus { s.port s.bus with unsettled := false }).ports })
  | receiveReady (st : s.st = .rPoll) (answer : s.pollAnswer = false)
      (next : t = { s with
        st := .rGet
        oracle := s.usePoll.oracle
        trace := s.trace ++ [.poll s.bus false]
        ports := (s.setPort s.bus { s.port s.bus with unsettled := false }).ports })
  | byteDelivered (st : s.st = .rGet) (idle : s.knownIdle s.bus = true) (more : s.idx + 1 < s.len)
      (next : t = { s with
        st := .rCmd
        idx := s.idx + 1
        oracle := s.useGet.oracle
        trace := s.trace ++ [.get s.bus s.getAnswer]
        rx := s.rx.write s.idx s.getAnswer })
  | receiveEnds (st : s.st = .rGet) (idle : s.knownIdle s.bus = true) (last : s.idx + 1 = s.len)
      (next : t = { s with
        st := .idle
        idx := s.idx + 1
        status := .ok
        remaining := 0
        done := true
        oracle := s.useGet.oracle
        trace := s.trace ++ [.get s.bus s.getAnswer]
        rx := s.rx.write s.idx s.getAnswer })

theorem sendLengthValid_iff (n : Nat) : sendLengthValid n = true ↔ 1 ≤ n ∧ n ≤ 30 := by
  unfold sendLengthValid Config.txMax; exact decide_eq_true_iff

theorem receiveLengthValid_iff (n : Nat) : receiveLengthValid n = true ↔ 1 ≤ n := by simp [receiveLengthValid]

/-- A step outside reset has one of the forms. -/
theorem step_form {s t : State} (hr : s.resetLine = false) (h : step s = .next t) : StepForm s t := by
  rcases step_cases hr h with ⟨h1, h2, h3⟩ | ⟨r, rest, i, h1, h2, h3, h4⟩ | ⟨h1, h2, h3⟩ | ⟨h1, h2, h3⟩ |
    ⟨v, h1, h2, h3, h4⟩ | ⟨k, h1, h2, h3, h4⟩ | ⟨k, h1, h2, h3, h4⟩ | ⟨h1, h2⟩ | ⟨h1, h2, h3, h4⟩
  · exact .quiet h1 h2 h3
  · rcases decode_request_cases h3 with ⟨d, c, rfl⟩ | ⟨b, a, d, rfl⟩ | ⟨b, a, n, rfl⟩
    · obtain ⟨-, e⟩ := exec_claim_next.1 h4
      split at e
      · exact .claimGranted d c h1 (by assumption) e
      · exact .claimExhausted h1 (by omega) e
    · obtain ⟨-, hc, hl, e⟩ := exec_send_next.1 h4
      split at e
      · next hv => exact .sendAccepted b a d h1 hc ((sendLengthValid_iff _).1 hv) hl e
      · next hv => exact .sendInvalid d h1 (by rw [sendLengthValid_iff] at hv; omega) hl e
    · obtain ⟨-, hc, hl, e⟩ := exec_receive_next.1 h4
      split at e
      · next hv => exact .receiveAccepted b a n h1 hc ((receiveLengthValid_iff _).1 hv) hl e
      · next hv =>
        have : n = 0 := by rw [receiveLengthValid_iff] at hv; omega
        exact .receiveInvalid h1 (this ▸ e)
  · exact .addressSend h1 h2 h3
  · exact .addressReceive h1 h2 h3
  · exact .put v h1 h2 h3 h4
  · exact .commandSend k h1 h2 h3 h4
  · exact .commandReceive k h1 h2 h3 h4
  · cases ha : s.pollAnswer with
    | true =>
      cases hl : s.atPollLimit with
      | true => exact .timeout h1 ha hl (h2.trans (State.sample_timeout ha hl))
      | false => exact .busyCounted h1 ha hl (h2.trans (State.sample_counted ha hl))
    | false =>
      rcases h1 with h1 | h1
      · by_cases hl : s.idx + 1 = s.len
        · exact .sendEnds h1 ha hl (h2.trans (State.sample_last_phase ha h1 hl))
        · exact .sendPhaseEnds h1 ha hl (h2.trans (State.sample_next_phase ha h1 hl))
      · exact .receiveReady h1 ha (h2.trans (State.sample_to_get ha h1))
  · by_cases hl : s.idx + 1 = s.len
    · exact .receiveEnds h1 h2 hl (h4.trans (State.fetchByte_last_phase hl))
    · exact .byteDelivered h1 h2 (by omega) (h4.trans (State.fetchByte_next_phase hl))

end Sys2Proof.Machine
end

