-- ==== Sys2Proof/Laws/PerInstr.lean ====
section
/-! SUPPORT. Per instruction: its code has the format and the fixed bits its row of spec/opcode_table.json gives it. The
numbers are the table's own `width`, `mask` and `match`, written out from it row by row, not computed by the encoder. -/

namespace Sys2Proof.Laws.TableRow

open Sys2Proof

/-- A row of spec/opcode_table.json. -/
structure Row where
  width : Nat
  mask : Nat
  value : Nat
  deriving DecidableEq, Repr

/-- The row of each instruction. -/
def row : Instr → Row
  | .claim _ _ => ⟨16, 0x0000, 0x0000⟩
  | .send _ _ _ => ⟨24, 0x800000, 0x000000⟩
  | .receive _ _ _ => ⟨24, 0x800000, 0x800000⟩
  | .addrSet _ _ => ⟨12, 0xF00, 0x100⟩
  | .put _ => ⟨12, 0xF00, 0x200⟩
  | .cmdSingleSend => ⟨12, 0xFFF, 0x300⟩
  | .cmdBurstStart => ⟨12, 0xFFF, 0x301⟩
  | .cmdBurstContinue => ⟨12, 0xFFF, 0x302⟩
  | .cmdBurstFinish => ⟨12, 0xFFF, 0x303⟩
  | .cmdSingleReceive => ⟨12, 0xFFF, 0x304⟩
  | .cmdBurstReceiveStart => ⟨12, 0xFFF, 0x305⟩
  | .cmdBurstReceiveContinue => ⟨12, 0xFFF, 0x306⟩
  | .cmdBurstReceiveFinish => ⟨12, 0xFFF, 0x307⟩
  | .poll => ⟨12, 0xFFF, 0x400⟩
  | .get => ⟨12, 0xFFF, 0x500⟩

/-- A code's word (a request's header, R73) fits a row: its width, and the bits under the mask. -/
def Fits (c : Code) (r : Row) : Prop :=
  match c with
  | .request (.claim w) => r.width = 16 ∧ w < 65536 ∧ w &&& r.mask = r.value
  | .request (.transfer h _) => r.width = 24 ∧ h < 16777216 ∧ h &&& r.mask = r.value
  | .micro w => r.width = 12 ∧ w &&& BitVec.ofNat 12 r.mask = BitVec.ofNat 12 r.value

/-- The table is written for the default widths (R8), so an instruction it has a word for is well formed at them. -/
def Statement (i : Instr) : Prop := i.wellFormed .standard = true → Fits (encode .standard i) (row i)

theorem header_fits {n : Nat} (o : Bool) (b : BusIndex) (a : BitVec 8) (h : n < 256) :
    headerWord .standard o b a n < 16777216 ∧
      headerWord .standard o b a n &&& 0x800000 = if o then 0x800000 else 0 := by
  have hb := b.isLt
  have ha := a.isLt
  have e : headerWord .standard o b a n = ((o.toNat * 128 + b.toNat) * 256 + a.toNat) * 256 + n := rfl
  have ht : headerWord .standard o b a n &&& 2 ^ 23 = if o then 2 ^ 23 else 0 := by
    rw [Nat.and_two_pow, Nat.testBit_eq_decide_div_mod_eq, e]
    cases o <;> simp only [Bool.toNat_true, Bool.toNat_false] <;>
      [rw [decide_eq_false (by omega)]; rw [decide_eq_true (by omega)]] <;> rfl
  refine ⟨?_, ht⟩
  rw [e]
  cases o <;> simp only [Bool.toNat_true, Bool.toNat_false] <;> omega

theorem length_fits {n : Nat} (h : decide (n ≤ Widths.standard.rxMax) = true) : n < 256 :=
  (Widths.le_rxMax_iff .standard n).1 (of_decide_eq_true h)

/-- Under a mask of the class field only the class is left. -/
theorem micro_class (c : BitVec 4) (p : Byte) : microWord c p &&& 0xF00#12 = c ++ 0#8 := by
  have hc : c &&& 0xF#4 = c := by revert c; decide
  have h : (c ++ p) &&& (0xF#4 ++ 0#8) = c ++ 0#8 := by rw [BitVec.and_append, hc, BitVec.and_zero]
  exact h

theorem claim (d c : Nat) : Statement (.claim d c) := fun h => by
  obtain ⟨hd, hc⟩ : d < 256 ∧ c < 256 := of_decide_eq_true h
  exact ⟨rfl, show d * 256 + c < 65536 by omega, Nat.and_zero _⟩

theorem send (b : BusIndex) (a : BitVec 8) (data : List Byte) : Statement (.send b a data) := fun h =>
  ⟨rfl, header_fits false b a (length_fits h)⟩

theorem receive (b : BusIndex) (a : BitVec 8) (n : Nat) : Statement (.receive b a n) := fun h =>
  ⟨rfl, header_fits true b a (length_fits h)⟩

theorem addrSet (a7 : Addr7) (r : Bool) : Statement (.addrSet a7 r) :=
  fun _ => ⟨rfl, (micro_class 1 _).trans (show 1#4 ++ 0#8 = 0x100#12 by decide)⟩

theorem put (v : Byte) : Statement (.put v) :=
  fun _ => ⟨rfl, (micro_class 2 v).trans (show 2#4 ++ 0#8 = 0x200#12 by decide)⟩

theorem cmdSingleSend : Statement .cmdSingleSend := fun _ => ⟨rfl, by decide⟩

theorem cmdBurstStart : Statement .cmdBurstStart := fun _ => ⟨rfl, by decide⟩

theorem cmdBurstContinue : Statement .cmdBurstContinue := fun _ => ⟨rfl, by decide⟩

theorem cmdBurstFinish : Statement .cmdBurstFinish := fun _ => ⟨rfl, by decide⟩

theorem cmdSingleReceive : Statement .cmdSingleReceive := fun _ => ⟨rfl, by decide⟩

theorem cmdBurstReceiveStart : Statement .cmdBurstReceiveStart := fun _ => ⟨rfl, by decide⟩

theorem cmdBurstReceiveContinue : Statement .cmdBurstReceiveContinue := fun _ => ⟨rfl, by decide⟩

theorem cmdBurstReceiveFinish : Statement .cmdBurstReceiveFinish := fun _ => ⟨rfl, by decide⟩

theorem poll : Statement .poll := fun _ => ⟨rfl, by decide⟩

theorem get : Statement .get := fun _ => ⟨rfl, by decide⟩

end Sys2Proof.Laws.TableRow
end

