-- ==== Sys2Proof/Tests/Slice0.lean ====
section
/-! SUPPORT. Tests with results taken from the spec (its encodings and the vectors of 95_test_vectors), each about one
word or one step, and for every obligation with hypotheses a witness that meets them. -/

open Sys2Proof Sys2Proof.Machine Sys2Proof.Safety

namespace Sys2Proof.Tests

/-! ### WellFormed -/

theorem wellFormed_replicate (w : Widths) (n : Nat) :
    (Instr.send 0 0x90 (List.replicate n 0)).wellFormed w = decide (n ≤ w.rxMax) := by
  simp [Instr.wellFormed]

theorem test_wellFormed_longest_send : (Instr.send 0 0x90 (List.replicate 255 0)).wellFormed .standard = true :=
  (wellFormed_replicate .standard 255).trans (by decide)

/-- 93 U16: 256 bytes cannot be written down; nor can a length of 256, nor one above `RX_MAX = 7` with `LEN_W = 3`. -/
theorem test_illFormed_send_256 : (Instr.send 0 0x90 (List.replicate 256 0)).wellFormed .standard = false :=
  (wellFormed_replicate .standard 256).trans (by decide)

theorem test_illFormed_receive :
    (Instr.receive 0 0x90 255).wellFormed .standard = true ∧ (Instr.receive 0 0x90 256).wellFormed .standard = false ∧
      (Instr.receive 0 0x90 7).wellFormed ⟨2, 7⟩ = true ∧ (Instr.receive 0 0x90 8).wellFormed ⟨2, 7⟩ = false := by decide

/-- R81: a pin of nine bits, in either place; it is one of `PIN_W = 9`. -/
theorem test_illFormed_pin :
    (Instr.claim 255 255).wellFormed .standard = true ∧ (Instr.claim 256 0).wellFormed .standard = false ∧
      (Instr.claim 0 256).wellFormed .standard = false ∧ (Instr.claim 256 256).wellFormed ⟨7, 8⟩ = true := by decide

/-! ### Decoding, words written out from R72 to R81 -/

/-- R81: 16 bits, data pin 0x06, clock pin 0x07 (95 P1). -/
theorem test_decode_claim : decode .standard (.request (.claim 0b00000110_00000111)) = .ok (.claim 0x06 0x07) := by decide

/-- R72: OP 0, BUS 0000000, ADDR 10010000, LEN 00000011 (95 S7). -/
theorem test_decode_send :
    decode .standard (.request (.transfer 0b0_0000000_10010000_00000011 [1, 2, 3])) = .ok (.send 0 0x90 [1, 2, 3]) := by decide

/-- R72: OP 1, BUS 0000101, ADDR 00111010, LEN 00000010. -/
theorem test_decode_receive :
    decode .standard (.request (.transfer 0b1_0000101_00111010_00000010 [])) = .ok (.receive 5 0x3A 2) := by decide

/-- R78: class 0001, A7 0011101, direction (95 P2: 0x13A, 0x13B). -/
theorem test_decode_addrSet :
    decode .standard (.micro 0b0001_0011101_0#12) = .ok (.addrSet 0x1D false) ∧
      decode .standard (.micro 0b0001_0011101_1#12) = .ok (.addrSet 0x1D true) := by decide

theorem test_decode_put : decode .standard (.micro 0b0010_10100001#12) = .ok (.put 0xA1) := by decide

/-- R79: class 0011, five zeros, the kind. -/
theorem test_decode_send_commands :
    decode .standard (.micro 0b0011_00000_000#12) = .ok .cmdSingleSend ∧
      decode .standard (.micro 0b0011_00000_001#12) = .ok .cmdBurstStart ∧
      decode .standard (.micro 0b0011_00000_010#12) = .ok .cmdBurstContinue ∧
      decode .standard (.micro 0b0011_00000_011#12) = .ok .cmdBurstFinish := by decide

theorem test_decode_receive_commands :
    decode .standard (.micro 0b0011_00000_100#12) = .ok .cmdSingleReceive ∧
      decode .standard (.micro 0b0011_00000_101#12) = .ok .cmdBurstReceiveStart ∧
      decode .standard (.micro 0b0011_00000_110#12) = .ok .cmdBurstReceiveContinue ∧
      decode .standard (.micro 0b0011_00000_111#12) = .ok .cmdBurstReceiveFinish := by decide

theorem test_decode_poll_get :
    decode .standard (.micro 0b0100_00000000#12) = .ok .poll ∧ decode .standard (.micro 0b0101_00000000#12) = .ok .get := by decide

/-- R83, 95 V44: unassigned words; R73: a header without its bytes, a receive with bytes. -/
theorem test_decode_rejects :
    decode .standard (.micro 0x600#12) = .reject .unassignedClass ∧ decode .standard (.micro 0x000#12) = .reject .unassignedClass ∧
      decode .standard (.micro 0x308#12) = .reject .unassignedKind ∧ decode .standard (.micro 0x401#12) = .reject .nonzeroPayload ∧
      decode .standard (.micro 0x580#12) = .reject .nonzeroPayload ∧
      decode .standard (.request (.transfer 0x009003 [1, 2])) = .reject .dataCount ∧
      decode .standard (.request (.transfer 0x809001 [1])) = .reject .dataCount ∧
      decode .standard (.request (.transfer 0x1009001 [0])) = .reject .wordTooWide ∧
      decode .standard (.request (.claim 0x10607)) = .reject .wordTooWide := by decide

/-- R8, R72, R81 at other widths (log 11): `LEN_W = 4` moves `ADDR` to bits 11:4, `PIN_W = 4` packs both pins in a byte. -/
theorem test_decode_narrow :
    decode ⟨3, 3⟩ (.request (.transfer 0b1_0000101_00111010_1111 [])) = .ok (.receive 5 0x3A 15) ∧
      decode ⟨3, 3⟩ (.request (.claim 0b0110_0111)) = .ok (.claim 6 7) ∧
      decode ⟨3, 3⟩ (.request (.claim 0x100)) = .reject .wordTooWide := by decide

/-- `LEN_W = 16`: a receive of 1000 bytes. -/
theorem test_decode_wide :
    decode ⟨15, 7⟩ (.request (.transfer 0x809003E8 [])) = .ok (.receive 0 0x90 1000) := by decide

/-- The rows of the opcode table at their `match` value, in whole bytes. -/
theorem test_table_words :
    decodeTableWord 16 0x0000 = some (.claim 0 0) ∧ decodeTableWord 24 0x000000 = some (.send 0 0 []) ∧
      decodeTableWord 24 0x800000 = some (.receive 0 0 0) ∧ decodeTableWord 16 0x100 = some (.addrSet 0 false) ∧
      decodeTableWord 16 0x200 = some (.put 0) ∧ decodeTableWord 16 0x300 = some .cmdSingleSend ∧
      decodeTableWord 16 0x301 = some .cmdBurstStart ∧ decodeTableWord 16 0x302 = some .cmdBurstContinue ∧
      decodeTableWord 16 0x303 = some .cmdBurstFinish ∧ decodeTableWord 16 0x304 = some .cmdSingleReceive ∧
      decodeTableWord 16 0x305 = some .cmdBurstReceiveStart ∧
      decodeTableWord 16 0x306 = some .cmdBurstReceiveContinue ∧
      decodeTableWord 16 0x307 = some .cmdBurstReceiveFinish ∧ decodeTableWord 16 0x400 = some .poll ∧
      decodeTableWord 16 0x500 = some .get := by decide

/-! ### Small states -/

/-- Two buses, `POLL_LIMIT = 3` (95 P3). -/
def cfg : Config where
  lastBus := 1
  desc := Vector.replicate 128 { base := 7, periph := 9 }
  pollLimit := .finite 2
  widths := .standard

/-- After reset on that platform. -/
def fresh : State := State.resetOn cfg

/-- Both buses claimed, in `IDLE`. -/
def ready : State := { fresh with claims := 2 }

/-- In the middle of `send(1, 0x90, [0x01, 0x02, 0x03])`, truncated to its first `len` bytes. -/
def sending (st : SeqState) (len idx : Nat) : State :=
  { ready with st := st, op := .send, bus := 1, a7 := 0x48, len := len, idx := idx, buf := [(0, 1), (1, 2), (2, 3)] }

/-- In the middle of `receive(1, 0x90, len)`. -/
def receiving (st : SeqState) (len idx : Nat) : State :=
  { ready with st := st, op := .receive, bus := 1, a7 := 0x48, len := len, idx := idx }

/-- With the controller's next answers. -/
def answering (s : State) (polls : List Bool) (gets : List Byte) : State :=
  { s with oracle := { polls := polls, gets := gets, clocks := [50000000], draws := 0 } }

/-- The host presents `r`. -/
def asking (s : State) (r : Request) : State := { s with host := [r] }

/-- What one step leaves, looked at through `f`. -/
def after {α : Type} (s : State) (f : State → α) : Option α :=
  match step s with
  | .next t => some (f t)
  | .fault _ => none
  | .refused _ => none

/-! ### One step of each instruction -/

/-- 95 V30. -/
theorem test_claim_first :
    after (asking (answering fresh [] []) (.claim 0x0607))
      (fun t => (t.claims, t.registryPort, t.trace, (t.port 0).master)) =
      some (1, some 0x0000, [.clkEn 9, .pinData 6, .pinClk 7, .sysclk 50000000, .setRate 0 50000000 false, .masterEn 0],
        true) := by decide

/-- 95 V32: the third claim on two buses. -/
theorem test_claim_exhausted :
    after (asking ready (.claim 0x0A0B)) (fun t => (t.claims, t.registryPort, t.trace, t.status, t.done)) =
      some (2, some 0x0300, [], .ok, false) := by decide

/-- 95 S7, first step; the address is stripped (R74). -/
theorem test_send_accepted :
    after (asking ready (.transfer 0x019103 [1, 2, 3])) (fun t => (t.st, t.bus, t.a7, t.len)) = some (.sAddr, 1, 0x48, 3) ∧
      after (asking ready (.transfer 0x019103 [1, 2, 3])) (fun t => t.buf) = some [(0, 1), (1, 2), (2, 3)] := by decide

/-- 95 P3, operation 5: 31 bytes give `0x011F`, and nothing is staged. -/
theorem test_send_31_bytes :
    after (asking ready (.transfer 0x00901F (List.replicate 31 0))) (fun t => (t.st, t.resultWord, t.done, t.buf)) =
      some (.idle, 0x011F, true, []) := by decide

/-- 95 S8, first step. -/
theorem test_receive_accepted :
    after (asking ready (.transfer 0x809001 [])) (fun t => (t.st, t.op, t.bus, t.a7, t.len, t.idx)) =
      some (.rAddr, .receive, 0, 0x48, 1, 0) := by decide

/-- 95 S4. -/
theorem test_receive_zero :
    after (asking ready (.transfer 0x809000 [])) (fun t => (t.st, t.resultWord, t.done, t.trace)) =
      some (.idle, 0x0100, true, []) := by decide

/-- R103: `addr-set(0x48,write)`, then `S_PUT`. -/
theorem test_addrSet_write :
    after (sending .sAddr 3 0) (fun t => (t.st, t.trace, (t.port 1).a7, (t.port 1).isRead)) =
      some (.sPut, [.addrSet 1 0x48 false], 0x48, false) := by decide

/-- R122: `addr-set(0x48,read)`, then `R_CMD`. -/
theorem test_addrSet_read :
    after (receiving .rAddr 1 0) (fun t => (t.st, t.trace, (t.port 1).isRead, (t.port 0).isRead)) =
      some (.rCmd, [.addrSet 1 0x48 true], true, false) := by decide

/-- R105: byte `IDX`, not byte 0. -/
theorem test_put :
    after (sending .sPut 3 1) (fun t => (t.st, t.trace, (t.port 1).data)) = some (.sCmd, [.put 1 2], 2) := by decide

theorem test_cmdSingleSend :
    after (sending .sCmd 1 0) (fun t => (t.st, t.trace)) = some (.sPoll, [.cmd 1 .singleSend]) := by decide

theorem test_cmdBurstStart :
    after (sending .sCmd 2 0) (fun t => (t.st, t.trace)) = some (.sPoll, [.cmd 1 .burstStart]) := by decide

theorem test_cmdBurstContinue :
    after (sending .sCmd 3 1) (fun t => (t.st, t.trace)) = some (.sPoll, [.cmd 1 .burstContinue]) := by decide

/-- R104: with two bytes there is no continue; R106: `PCNT` is cleared. -/
theorem test_cmdBurstFinish :
    after { sending .sCmd 2 1 with pcnt := 2 } (fun t => (t.st, t.trace, t.pcnt)) =
      some (.sPoll, [.cmd 1 .burstFinish], 0) := by decide

theorem test_cmdSingleReceive :
    after (receiving .rCmd 1 0) (fun t => (t.st, t.trace)) = some (.rPoll, [.cmd 1 .singleReceive]) := by decide

theorem test_cmdBurstReceiveStart :
    after (receiving .rCmd 255 0) (fun t => (t.st, t.trace)) = some (.rPoll, [.cmd 1 .burstReceiveStart]) := by decide

theorem test_cmdBurstReceiveContinue :
    after (receiving .rCmd 255 253) (fun t => (t.st, t.trace)) =
      some (.rPoll, [.cmd 1 .burstReceiveContinue]) := by decide

theorem test_cmdBurstReceiveFinish :
    after (receiving .rCmd 255 254) (fun t => (t.st, t.trace)) =
      some (.rPoll, [.cmd 1 .burstReceiveFinish]) := by decide

/-- 95 V26, last sample: the third busy answer of phase 1 of 3 gives `0x0202`; `PCNT` keeps 2, `IDX` keeps 1. -/
theorem test_poll_timeout :
    after (answering { receiving .rPoll 3 1 with pcnt := 2 } [true] [])
      (fun t => (t.st, t.resultWord, t.done, t.pcnt, t.idx)) = some (.idle, 0x0202, true, 2, 1) := by decide

/-- R107: an idle third sample is success. -/
theorem test_poll_idle_on_last_sample :
    after (answering { sending .sPoll 3 1 with pcnt := 2 } [false] []) (fun t => (t.st, t.idx, t.trace)) =
      some (.sPut, 2, [.poll 1 false]) := by decide

/-- 95 V26: `0x500->0xA1` in phase 0 of 3. -/
theorem test_get :
    after (answering (receiving .rGet 3 0) [] [0xA1]) (fun t => (t.st, t.idx, t.rx, t.trace)) =
      some (.rCmd, 1, [(0, 0xA1)], [.get 1 0xA1]) := by decide

/-- R131(c): the last byte of 255; `IDX` reaches 255. -/
theorem test_get_last_of_255 :
    after (answering (receiving .rGet 255 254) [] [0x5A]) (fun t => (t.st, t.idx, t.rx, t.resultWord, t.done)) =
      some (.idle, 255, [(254, 0x5A)], 0x0000, true) := by decide

/-- The codes of R22 and R21, and `READY` (R28). -/
theorem test_codes :
    [SeqState.idle, .sAddr, .sPut, .sCmd, .sPoll, .rAddr, .rCmd, .rPoll, .rGet].map SeqState.code =
        [0, 1, 2, 3, 4, 5, 6, 7, 8] ∧ Op.send.bit = false ∧ Op.receive.bit = true ∧ ready.ready = true ∧
      (sending .sPoll 3 1).ready = false := by decide

/-- Placed from the state after reset, a command and a receive are what the next step runs (log 13). -/
theorem test_placed_words :
    after (fresh.withFetchWord 16 0x302) (fun t => t.trace) = some [.cmd 0 .burstContinue] ∧
      after (fresh.withFetchWord 24 0x859102) (fun t => (t.st, t.bus, t.a7, t.len)) = some (.rAddr, 5, 0x48, 2) := by decide

/-! ### Witnesses: concrete states and operands that meet the hypotheses of the obligations -/

/-- An asserted reset, in `IDLE` and in a transaction. -/
theorem witness_ResetEventGivesResetState :
    ({ ready with resetLine := true } : State).resetLine = true ∧
      ({ sending .sPoll 3 1 with resetLine := true } : State).resetLine = true ∧
      ({ sending .sPoll 3 1 with resetLine := true } : State).st ≠ .idle := by decide

/-- A presented request in `IDLE`; a named micro-operation in a transaction. -/
theorem witness_FetchedOperationRuns :
    (asking ready (.claim 0x0607)).resetLine = false ∧
      (asking ready (.claim 0x0607)).fetch = .next (some (.request (.claim 0x0607))) ∧
      decode .standard (.request (.claim 0x0607)) = .ok (.claim 6 7) ∧ (asking ready (.claim 0x0607)).st = .idle ∧
      (sending .sPut 3 1).resetLine = false ∧ (sending .sPut 3 1).st ≠ .idle ∧
      (sending .sPut 3 1).namedOp = .next (.put 2) :=
  ⟨rfl, rfl, rfl, rfl, rfl, by decide, rfl⟩

theorem witness_IdleWithoutRequestHolds : ready.resetLine = false ∧ ready.st = .idle ∧ ready.host = [] := by decide

theorem witness_PlacedOperationRuns :
    ready.cfg.widths = .standard ∧ decodeTableWord 16 0xFFFF = some (.claim 0xFF 0xFF) ∧ decodeTableWord 24 0x7FFF02 = some (.send 0x7F 0xFF [0, 0]) ∧
      decodeTableWord 24 0xFFFFFF = some (.receive 0x7F 0xFF 0xFF) ∧
      decodeTableWord 12 0x1FF = some (.addrSet 0x7F true) ∧ decodeTableWord 16 0x500 = some .get := by decide

theorem witness_DecodeEncodeRoundTrip :
    (Instr.send 0x7F 0xFF []).wellFormed ⟨0, 0⟩ = true ∧ (Instr.claim 1 1).wellFormed ⟨0, 0⟩ = true ∧
      (Instr.send 0 0x90 (List.replicate 255 0)).wellFormed .standard = true ∧
      (Instr.receive 0x7F 0xFF 65535).wellFormed ⟨15, 7⟩ = true :=
  ⟨rfl, rfl, test_wellFormed_longest_send, by decide⟩

theorem witness_EncodeDecodeRoundTrip :
    decode .standard (.micro 0x307) = .ok .cmdBurstReceiveFinish ∧
      decode .standard (.request (.transfer 0x7FFF00 [])) = .ok (.send 0x7F 0xFF []) ∧
      decode ⟨0, 0⟩ (.request (.claim 0b11)) = .ok (.claim 1 1) := by decide

theorem witness_TargetAddressStripsLowBit :
    (0x90 : BitVec 8).extractLsb' 1 7 = (0x91 : BitVec 8).extractLsb' 1 7 ∧
      (∃ t, exec (.send 1 0xFF [1]) ready = .next t ∧ t.st = .sAddr) ∧
      ∃ t, exec (.receive 1 0 1) ready = .next t ∧ t.st = .rAddr :=
  ⟨by decide, ⟨_, rfl, rfl⟩, _, rfl, rfl⟩

/-- Every row of the table at its bounds, and each way of being outside the domain. -/
theorem witness_SendKindTable :
    sendKind 1 0 = some .singleSend ∧ sendKind 2 0 = some .burstStart ∧ sendKind 2 1 = some .burstFinish ∧
      sendKind 3 1 = some .burstContinue ∧ sendKind 30 28 = some .burstContinue ∧ sendKind 30 29 = some .burstFinish ∧
      sendKind 0 0 = none ∧ sendKind 31 0 = none ∧ sendKind 30 30 = none := by decide

theorem witness_ReceiveKindTable :
    recvKind .standard 1 0 = some .singleReceive ∧ recvKind .standard 2 0 = some .burstReceiveStart ∧
      recvKind .standard 2 1 = some .burstReceiveFinish ∧ recvKind .standard 3 1 = some .burstReceiveContinue ∧
      recvKind .standard 255 253 = some .burstReceiveContinue ∧ recvKind .standard 255 254 = some .burstReceiveFinish ∧
      recvKind .standard 0 0 = none ∧ recvKind .standard 256 0 = none ∧ recvKind .standard 255 255 = none ∧
      recvKind ⟨0, 7⟩ 1 0 = some .singleReceive ∧ recvKind ⟨0, 7⟩ 2 0 = none := by decide

/-- The first and the last claim of two buses. -/
theorem witness_ClaimGrantsNextDescriptor :
    fresh.st = .idle ∧ fresh.claims.toNat < fresh.cfg.numBuses ∧
      ({ fresh with claims := 1 } : State).claims.toNat < fresh.cfg.numBuses := by decide

theorem witness_ClaimSetsUpController :
    ({ fresh with claims := 1 } : State).st = .idle ∧ (1 : BusIndex).toNat = ({ fresh with claims := 1 } : State).claims.toNat
      ∧ ({ fresh with claims := 1 } : State).claims.toNat < fresh.cfg.numBuses := by decide

theorem witness_AcceptanceConsumesRequest :
    (∃ t, exec (.claim 1 2) ready = .next t) ∧ (∃ t, exec (.receive 1 0x90 0) ready = .next t) ∧ IsMicro .poll = true ∧
      ∃ t, exec .poll (sending .sPoll 3 1) = .next t :=
  ⟨⟨_, rfl⟩, ⟨_, rfl⟩, rfl, ⟨_, rfl⟩⟩

theorem witness_ClaimExhaustedChangesNothing : ready.st = .idle ∧ ready.claims.toNat = ready.cfg.numBuses := by decide

theorem witness_HostOperationsHeldWhileRunning : (sending .sPoll 3 1).st ≠ .idle := by decide

theorem witness_SendAcceptance :
    ready.st = .idle ∧ ready.claimed 1 = true ∧ (List.replicate 31 (0 : Byte)).length ≤ ready.cfg.rxMax ∧
      30 < (List.replicate 31 (0 : Byte)).length ∧ ([] : List Byte).length = 0 ∧
      1 ≤ (List.replicate 30 (0 : Byte)).length ∧ (List.replicate 30 (0 : Byte)).length ≤ 30 ∧
      1 ≤ [(5 : Byte)].length := by decide

theorem witness_ReceiveAcceptance :
    ready.st = .idle ∧ ready.claimed 1 = true ∧ 0 ≤ ready.cfg.rxMax ∧ 1 ≤ ready.cfg.rxMax ∧ 255 ≤ ready.cfg.rxMax := by
  decide

/-- 95 V40: handle 2 with two claims; and the largest bus field with none. -/
theorem witness_UnclaimedHandleRefused :
    ready.st = .idle ∧ ready.claims.toNat ≤ (2 : BusIndex).toNat ∧ fresh.claims.toNat ≤ (0 : BusIndex).toNat ∧
      ready.claims.toNat ≤ (0x7F : BusIndex).toNat := by decide

theorem replicate_longer (m n : Nat) (h : m < n) : m < (List.replicate n (0 : Byte)).length := by simpa using h

theorem witness_OverlongSendRefused :
    ready.st = .idle ∧ ready.claimed 0 = true ∧ ready.cfg.rxMax < (List.replicate 256 (0 : Byte)).length :=
  ⟨rfl, by decide, replicate_longer 255 256 (by decide)⟩

theorem witness_OverlongReceiveRefused : ready.st = .idle ∧ ready.claimed 0 = true ∧ ready.cfg.rxMax < 256 := by decide

/-- The longest and the shortest length field, and pins at the top of theirs. -/
theorem witness_RequestFields :
    (255 : Nat) < 256 ∧ 65535 ≤ (Widths.mk 15 7).rxMax ∧ 1 ≤ (Widths.mk 0 0).rxMax ∧ 1 < 2 ^ (Widths.mk 0 0).pinW ∧
      255 < 2 ^ Widths.standard.pinW := by decide

/-- The value field at both sides of `LEN_W = 8`. -/
theorem witness_ResultWordLayout :
    let s : State := { ready with remaining := 255 }
    let t : State := { ready with cfg := { cfg with widths := ⟨15, 7⟩ }, status := .busTimeout, remaining := 1000 }
    s.cfg.widths.lenW ≤ 8 ∧ 8 ≤ s.cfg.widths.lenW ∧ s.remaining < 256 ∧ s.remaining ≤ s.cfg.rxMax ∧
      8 ≤ t.cfg.widths.lenW ∧ t.remaining ≤ t.cfg.rxMax ∧ t.resultWord = 0x203E8 := by decide

theorem witness_AddressSetProgramsTarget :
    (sending .sAddr 3 0).st = .sAddr ∧ (sending .sAddr 3 0).knownIdle 1 = true ∧ (sending .sAddr 3 0).bus = 1 ∧
      (receiving .rAddr 1 0).st = .rAddr ∧ (receiving .rAddr 1 0).knownIdle 1 = true ∧ (receiving .rAddr 1 0).bus = 1 := by
  decide

theorem port_ready (b : BusIndex) : ready.port b = Port.powerOn := by
  simp [ready, fresh, State.resetOn, State.port]

/-- The invariant in a send of three bytes at any phase, in any of its states. -/
theorem inv_sending {st : SeqState} {idx : Nat} (h : st.isSend = true) (hi : idx < 3)
    (h0 : st = .sAddr → idx = 0) : Inv (sending st 3 idx) := by
  have hk : (sending st 3 idx).knownIdle 1 = true := by
    rw [State.knownIdle_iff]
    exact ⟨rfl, congrArg Port.unsettled (port_ready 1)⟩
  exact {
    phase := fun _ => ⟨by show 1 ≤ 3; decide, hi⟩
    claimedBus := fun _ => rfl
    sendOp := fun _ => ⟨rfl, by show 3 ≤ 30; decide⟩
    receiveOp := fun hr => by cases st <;> simp [sending, SeqState.isReceive, SeqState.isSend] at h hr
    firstPhase := fun hf => h0 (hf.resolve_right (fun e => by cases e; cases h))
    waitBound := fun _ n hn => by cases hn; show 0 < 3; decide
    claimsBound := by show 2 ≤ 2; decide
    notDone := fun _ => rfl
    staged := fun _ => by
      show ∀ i, i < 3 → (Memory.read [(0, 1), (1, 2), (2, 3)] i).isSome = true; decide
    bufForm := ⟨by show Memory.wf [(0, 1), (1, 2), (2, 3)]; decide,
      by show ∀ c ∈ ([(0, 1), (1, 2), (2, 3)] : Memory), c.1 < 30; decide⟩
    lengths := ⟨by show 3 ≤ 255; decide, show idx ≤ 255 by omega, Nat.zero_le _⟩
    rxForm := ⟨List.Pairwise.nil, fun c hc => by cases hc⟩
    knownIdle := fun _ => hk
    transferStatus := fun h => by cases h }

/-- The invariant in a receive at any phase of any length. -/
theorem inv_receiving {st : SeqState} {len idx : Nat} (h : st.isReceive = true) (hi : idx < len)
    (hl : len ≤ 255) (h0 : st = .rAddr → idx = 0) : Inv (receiving st len idx) := by
  have hk : (receiving st len idx).knownIdle 1 = true := by
    rw [State.knownIdle_iff]
    exact ⟨rfl, congrArg Port.unsettled (port_ready 1)⟩
  exact {
    phase := fun _ => ⟨Nat.succ_le_of_lt (Nat.lt_of_le_of_lt (Nat.zero_le _) hi), hi⟩
    claimedBus := fun _ => rfl
    sendOp := fun hr => by cases st <;> simp [receiving, SeqState.isReceive, SeqState.isSend] at h hr
    receiveOp := fun _ => rfl
    firstPhase := fun hf => h0 (hf.resolve_left (fun e => by cases e; cases h))
    waitBound := fun _ n hn => by cases hn; show 0 < 3; decide
    claimsBound := by show 2 ≤ 2; decide
    notDone := fun _ => rfl
    staged := fun hr => by cases st <;> simp [receiving, SeqState.isReceive, SeqState.isSend] at h hr
    bufForm := ⟨List.Pairwise.nil, fun c hc => by cases hc⟩
    lengths := ⟨hl, show idx ≤ 255 by omega, Nat.zero_le _⟩
    rxForm := ⟨List.Pairwise.nil, fun c hc => by cases hc⟩
    knownIdle := fun _ => hk
    transferStatus := fun h => by cases h }

theorem witness_PutLoadsStagedByte :
    Inv (sending .sPut 3 0) ∧ Inv (sending .sPut 3 2) ∧ (sending .sPut 3 2).st = .sPut :=
  ⟨inv_sending rfl (by decide) (fun h => by cases h), inv_sending rfl (by decide) (fun h => by cases h), rfl⟩

/-- Each of the four kinds of a send. -/
theorem witness_SendCommandIssued :
    (sending .sCmd 3 1).st = .sCmd ∧ (sending .sCmd 3 1).knownIdle 1 = true ∧ (sending .sCmd 3 1).bus = 1 ∧
      sendKind (sending .sCmd 1 0).len 0 = some .singleSend ∧
      sendKind (sending .sCmd 3 0).len 0 = some .burstStart ∧
      sendKind (sending .sCmd 3 1).len 1 = some .burstContinue ∧
      sendKind (sending .sCmd 3 2).len 2 = some .burstFinish := by decide

/-- Each of the four kinds of a receive. -/
theorem witness_ReceiveCommandIssued :
    (receiving .rCmd 255 1).st = .rCmd ∧ (receiving .rCmd 255 1).knownIdle 1 = true ∧ (receiving .rCmd 255 1).bus = 1 ∧
      recvKind .standard (receiving .rCmd 1 0).len 0 = some .singleReceive ∧
      recvKind .standard (receiving .rCmd 255 0).len 0 = some .burstReceiveStart ∧
      recvKind .standard (receiving .rCmd 255 1).len 1 = some .burstReceiveContinue ∧
      recvKind .standard (receiving .rCmd 255 254).len 254 = some .burstReceiveFinish := by decide

theorem witness_PollIdleEndsSendPhase :
    (answering (sending .sPoll 3 1) [false] []).st = .sPoll ∧
      (answering (sending .sPoll 3 1) [false] []).pollAnswer = false ∧
      (sending .sPoll 3 1).idx + 1 < (sending .sPoll 3 1).len := by decide

theorem witness_PollIdleLeadsToGet :
    (answering (receiving .rPoll 3 2) [false] []).st = .rPoll ∧
      (answering (receiving .rPoll 3 2) [false] []).pollAnswer = false := by decide

/-- The last busy answer that is still counted with `POLL_LIMIT = 3`. -/
theorem witness_PollBusyIsCounted :
    (answering { sending .sPoll 3 1 with pcnt := 1 } [true] []).st = .sPoll ∧
      (answering { receiving .rPoll 3 1 with pcnt := 1 } [true] []).st = .rPoll ∧
      (answering { sending .sPoll 3 1 with pcnt := 1 } [true] []).pollAnswer = true ∧
      cfg.pollLimit.samples ≠ some (1 + 1) := by decide

theorem inv_pcnt {s : State} {n : Nat} (hI : Inv s) (h : ∀ m, s.cfg.pollLimit.samples = some m → n < m) :
    Inv { s with pcnt := n } :=
  { hI with waitBound := fun _ => h }

theorem inv_answering {s : State} {polls : List Bool} {gets : List Byte} (hI : Inv s) : Inv (answering s polls gets) :=
  { hI with }

/-- The third busy answer with `POLL_LIMIT = 3`, in the last phase of a send and in the first of a receive; and, for the
second clause, a state with `POLL_LIMIT = INF` that shows an old `BUS_TIMEOUT`. -/
theorem witness_PollLimitRaisesBusTimeout :
    Inv (answering { sending .sPoll 3 2 with pcnt := 2 } [true] []) ∧
      Inv (answering { receiving .rPoll 255 0 with pcnt := 2 } [true] []) ∧
      (answering { sending .sPoll 3 2 with pcnt := 2 } [true] []).pollAnswer = true ∧
      cfg.pollLimit.samples = some (2 + 1) ∧
      (∃ t, step { fresh with cfg := { cfg with pollLimit := .inf }, status := .busTimeout } = .next t ∧
        t.status = .busTimeout) :=
  ⟨inv_answering (inv_pcnt (inv_sending rfl (by decide) (fun h => by cases h)) (fun m hm => by cases hm; decide)),
    inv_answering (inv_pcnt (inv_receiving rfl (by decide) (by decide) (fun h => by cases h)) (fun m hm => by cases hm; decide)),
    rfl, rfl, _, step_quiet rfl rfl rfl, rfl⟩

theorem witness_LastPhaseCompletesOk :
    (answering (sending .sPoll 3 2) [false] []).pollAnswer = false ∧
      (sending .sPoll 3 2).idx + 1 = (sending .sPoll 3 2).len ∧
      (receiving .rGet 255 254).st = .rGet ∧ (receiving .rGet 255 254).knownIdle 1 = true ∧
      (receiving .rGet 255 254).idx + 1 = (receiving .rGet 255 254).len := by decide

theorem witness_IdleAnswerSettlesBus :
    (sending .sPoll 3 1).st = .sPoll ∧ (receiving .rPoll 3 1).st = .rPoll ∧
      (answering (sending .sPoll 3 1) [true] []).pollAnswer = true ∧
      (answering (sending .sPoll 3 1) [false] []).pollAnswer = false ∧ (sending .sPoll 3 1).claimed 1 = true := by decide

theorem witness_GetDeliversByte :
    (receiving .rGet 255 253).st = .rGet ∧ (receiving .rGet 255 253).knownIdle 1 = true ∧
      (receiving .rGet 255 253).idx + 1 < (receiving .rGet 255 253).len := by decide

/-- A bus left unsettled by an earlier timeout, at the start of the next transaction on it. -/
def unsettled (s : State) : State := s.setUnsettled 1 true

theorem witness_UnsettledBusFaults :
    NeedsIdleBus (.addrSet 0x48 false) = true ∧ (unsettled (sending .sAddr 3 0)).namedOp = .next (.addrSet 0x48 false) ∧
      (unsettled (sending .sAddr 3 0)).knownIdle (unsettled (sending .sAddr 3 0)).bus = false ∧
      NeedsIdleBus .get = true ∧ (unsettled (receiving .rGet 3 0)).namedOp = .next .get ∧
      (unsettled (receiving .rGet 3 0)).knownIdle (unsettled (receiving .rGet 3 0)).bus = false :=
  ⟨rfl, rfl, by decide, rfl, rfl, by decide⟩

theorem witness_OnlyTheNamedMicroOperationRuns :
    IsMicro .get = true ∧ ready.st = .idle ∧ (sending .sPoll 3 1).namedOp = .next .poll ∧ Instr.poll ≠ .get :=
  ⟨rfl, rfl, rfl, by decide⟩

theorem witness_StepKeepsDatapathInvariant :
    Inv (sending .sPut 3 1) ∧ (∃ t, step (sending .sPut 3 1) = .next t) ∧ Inv (receiving .rCmd 255 254) ∧
      ∃ t, step (receiving .rCmd 255 254) = .next t :=
  ⟨inv_sending rfl (by decide) (fun h => by cases h), ⟨_, rfl⟩,
    inv_receiving rfl (by decide) (by decide) (fun h => by cases h), ⟨_, rfl⟩⟩

theorem witness_ReachableStatesMeetInvariant : Reachable ((State.resetOn cfg).present (.claim 0x0607)) ∧
    Reachable (State.reset.present (.claim 0x0607)) :=
  ⟨.present _ (.reset _), .present _ (.reset _)⟩

theorem inv_unsettled_sAddr : Inv (unsettled (sending .sAddr 3 0)) :=
  { inv_sending (st := .sAddr) (idx := 0) rfl (by decide) (fun _ => rfl) with
    knownIdle := fun h => by rcases h with h | h | h | h <;> cases h }

theorem inv_asking {s : State} {r : Request} (hI : Inv s) : Inv (asking s r) := { hI with }

theorem inv_ready : Inv ready where
  phase h := absurd rfl h
  claimedBus h := absurd rfl h
  sendOp h := by cases h
  receiveOp h := by cases h
  firstPhase h := by rcases h with h | h <;> cases h
  waitBound h := by rcases h with h | h <;> cases h
  claimsBound := by decide
  notDone h := absurd rfl h
  staged h := by cases h
  bufForm := ⟨List.Pairwise.nil, fun c hc => by cases hc⟩
  lengths := ⟨Nat.zero_le _, Nat.zero_le _, Nat.zero_le _⟩
  rxForm := ⟨List.Pairwise.nil, fun c hc => by cases hc⟩
  knownIdle h := by rcases h with h | h | h | h <;> cases h
  transferStatus := by decide

/-- One state for each outcome that is left. -/
theorem witness_InvariantLeavesOnlyDeclaredStops :
    (Inv (sending .sPoll 3 1) ∧ ∃ t, step (sending .sPoll 3 1) = .next t) ∧
      (Inv (unsettled (sending .sAddr 3 0)) ∧ step (unsettled (sending .sAddr 3 0)) = .fault .busNotKnownIdle) ∧
      (Inv (asking ready (.transfer 0x029001 [1])) ∧
        step (asking ready (.transfer 0x029001 [1])) = .refused .unclaimedHandle) ∧
      (Inv (asking ready (.transfer 0x809001 [1])) ∧
        step (asking ready (.transfer 0x809001 [1])) = .refused (.badEncoding .dataCount)) :=
  ⟨⟨inv_sending rfl (by decide) (fun h => by cases h), ⟨_, rfl⟩⟩, ⟨inv_unsettled_sAddr, rfl⟩,
    ⟨inv_asking inv_ready, rfl⟩, ⟨inv_asking inv_ready, rfl⟩⟩

theorem settled_of_ports {s : State} (h : s.ports = ready.ports) : Settled s := fun b hb => by
  rw [State.port_congr h, port_ready] at hb; cases hb

/-- Before a command, and with a command outstanding for the running wait, whose next answer is idle. -/
theorem witness_NoOverlapLaw :
    (Inv (sending .sCmd 3 1) ∧ Settled (sending .sCmd 3 1) ∧ (sending .sCmd 3 1).resetLine = false ∧
      (∃ t, step (sending .sCmd 3 1) = .next t) ∧ ¬ TimesOut (sending .sCmd 3 1)) ∧
    (Inv (answering (unsettled (sending .sPoll 3 1)) [false] []) ∧
      Settled (answering (unsettled (sending .sPoll 3 1)) [false] []) ∧
      (∃ t, step (answering (unsettled (sending .sPoll 3 1)) [false] []) = .next t) ∧
      ¬ TimesOut (answering (unsettled (sending .sPoll 3 1)) [false] [])) := by
  refine ⟨⟨inv_sending rfl (by decide) (fun h => by cases h), settled_of_ports rfl, rfl, ⟨_, rfl⟩, ?_⟩,
    ⟨inv_answering ?_, ?_, ⟨_, rfl⟩, ?_⟩⟩
  · rintro ⟨h, -⟩; rcases h with h | h <;> cases h
  · exact { inv_sending (st := .sPoll) (idx := 1) rfl (by decide) (fun h => by cases h) with
      knownIdle := fun h => by rcases h with h | h | h | h <;> cases h }
  · intro b hb
    refine ⟨.inl rfl, ?_⟩
    by_contra hne
    have h : (unsettled (sending .sPoll 3 1)).port b = ready.port b := by
      rw [unsettled, State.port_setUnsettled, if_neg (show ¬ b = 1 from hne)]; rfl
    have hb' : ((unsettled (sending .sPoll 3 1)).port b).unsettled = true := hb
    rw [h, port_ready] at hb'; cases hb'
  · rintro ⟨-, h, -⟩; cases h

/-- After `PUT` of byte 1, before its command. -/
theorem witness_StepKeepsTraceDiscipline :
    Inv { sending .sCmd 3 1 with trace := [.put 1 2] } ∧ LastEventFits { sending .sCmd 3 1 with trace := [.put 1 2] } ∧
      ∃ t, step { sending .sCmd 3 1 with trace := [.put 1 2] } = .next t :=
  ⟨{ inv_sending (st := .sCmd) (idx := 1) rfl (by decide) (fun h => by cases h) with }, ⟨2, rfl, rfl⟩, ⟨_, rfl⟩⟩

/-- The premises shared by the whole-machine rules: outside reset, a step that answers a next state, from `IDLE` and from
a transaction. -/
theorem witness_TransitionsFollowTheTable :
    ready.resetLine = false ∧ (∃ t, step ready = .next t) ∧ (receiving .rAddr 3 0).resetLine = false ∧
      ∃ t, step (receiving .rAddr 3 0) = .next t ∧ t.st = .rCmd :=
  ⟨rfl, ⟨_, rfl⟩, rfl, _, rfl, rfl⟩

theorem witness_ConfigurationNeverChanges : ∃ t, step (asking fresh (.claim 0x0607)) = .next t := ⟨_, rfl⟩

/-- A step that claims, and one that does not. -/
theorem witness_ClaimsOnlyGrow :
    (asking fresh (.claim 0x0607)).resetLine = false ∧ (∃ t, step (asking fresh (.claim 0x0607)) = .next t) ∧
      after (asking fresh (.claim 0x0607)) (fun t => t.claims) = some 1 ∧
      ∃ t, step (asking ready (.claim 0x0607)) = .next t ∧ t.claims = ready.claims :=
  ⟨rfl, ⟨_, rfl⟩, by decide, _, rfl, rfl⟩

/-- A rejected request (`t.st = .idle`), and a step inside a transaction. -/
theorem witness_OperandLatchesHoldUntilAcceptance :
    (∃ t, step (asking ready (.transfer 0x809000 [])) = .next t ∧ t.st = .idle) ∧
      (receiving .rGet 3 0).resetLine = false ∧ (receiving .rGet 3 0).st ≠ .idle ∧
      ∃ t, step (receiving .rGet 3 0) = .next t :=
  ⟨⟨_, rfl, rfl⟩, rfl, by decide, ⟨_, rfl⟩⟩

theorem witness_TraceGrowsByOneEvent :
    ready.resetLine = false ∧ ready.st = .idle ∧ (∃ t, step (asking ready (.claim 0x0607)) = .next t) ∧
      (sending .sAddr 3 0).st ≠ .idle ∧ ∃ t, step (sending .sAddr 3 0) = .next t :=
  ⟨rfl, rfl, ⟨_, rfl⟩, by decide, ⟨_, rfl⟩⟩

/-- A completing step that changes `STATUS` and `DONE`, and an acceptance that clears `DONE`. -/
theorem witness_ResultRegistersHoldBetweenCompletions :
    (∃ t, step (asking ready (.transfer 0x809000 [])) = .next t ∧ t.status ≠ ready.status ∧ t.done ≠ ready.done) ∧
      ∃ t, step { asking ready (.transfer 0x809001 []) with done := true } = .next t ∧ t.done = false :=
  ⟨⟨_, rfl, by decide, by decide⟩, _, rfl, rfl⟩

theorem witness_TransactionFrame :
    (sending .sPut 3 1).resetLine = false ∧ (sending .sPut 3 1).st ≠ .idle ∧ (sending .sPut 3 1).st.isSend = true ∧
      ∃ t, step (sending .sPut 3 1) = .next t :=
  ⟨rfl, by decide, rfl, ⟨_, rfl⟩⟩

/-- A receive with anything in `BUF`; a send of two bytes with a different third cell. -/
theorem witness_StaleScratchNeverMatters :
    (receiving .rGet 3 0).st.isReceive = true ∧ (∃ t, step (receiving .rGet 3 0) = .next t) ∧
      (sending .sPut 2 1).st.isSend = true ∧ (sending .sPut 2 1).idx < (sending .sPut 2 1).len ∧
      (∀ i, i < (sending .sPut 2 1).len →
        Memory.read [(0, 1), (1, 2), (2, 0xEE)] i = (sending .sPut 2 1).buf.read i) ∧
      ∃ t, step (sending .sPut 2 1) = .next t :=
  ⟨rfl, ⟨_, rfl⟩, rfl, by decide, by show ∀ i, i < 2 → _; decide, ⟨_, rfl⟩⟩

theorem witness_ReceiveStorageNeverRead : ∃ t, step (receiving .rGet 3 1) = .next t := ⟨_, rfl⟩

/-- A send of `phases` presented on bus 0, with the answers of its waits. -/
def sendRun (phases : List (Byte × Nat)) : State :=
  answering (asking ready (.transfer (headerWord .standard false 0 0x90 phases.length) (phases.map Prod.fst)))
    (phases.flatMap (fun p => waitAnswers p.2)) []

/-- The premises of a send's expansion, met by `sendRun phases`. -/
def SendPremises (phases : List (Byte × Nat)) : Prop :=
  let s := sendRun phases
  s.resetLine = false ∧ s.st = .idle ∧ s.knownIdle 0 = true ∧ 1 ≤ phases.length ∧ phases.length ≤ 30 ∧
    phases.length ≤ s.cfg.rxMax ∧
    s.host = .transfer (headerWord s.cfg.widths false 0 0x90 phases.length) (phases.map Prod.fst) :: [] ∧
    s.oracle.polls = phases.flatMap (fun p => waitAnswers p.2) ++ [] ∧
    ∀ p ∈ phases, ∀ n, s.cfg.pollLimit.samples = some n → p.2 < n

theorem sendRun_meets {phases : List (Byte × Nat)} (h : 1 ≤ phases.length ∧ phases.length ≤ 30)
    (hw : ∀ p ∈ phases, p.2 < 3) : SendPremises phases :=
  ⟨rfl, rfl, (by decide : ready.knownIdle 0 = true), h.1, h.2, Nat.le_trans h.2 (by decide : 30 ≤ 255), rfl,
    (List.append_nil _).symm, fun p hp n hn => by cases hn; exact hw p hp⟩

/-- 95 P1, operation 2: waits of 3, 1 and 2 samples, here with `POLL_LIMIT = 3`; and the shortest and the longest send. -/
theorem witness_SendHasItsExpansion :
    SendPremises [(1, 2), (2, 0), (3, 1)] ∧ SendPremises [(0xFF, 2)] ∧ SendPremises (List.replicate 30 (0xA5, 1)) :=
  ⟨sendRun_meets (by decide) (by decide), sendRun_meets (by decide) (by decide),
    sendRun_meets (by decide) (fun p hp => by rw [List.eq_of_mem_replicate hp]; decide)⟩

/-- A receive of `phases.length` bytes presented on bus 0, with the answers of its waits and its bytes. -/
def receiveRun (phases : List (Byte × Nat)) : State :=
  answering (asking ready (.transfer (headerWord .standard true 0 0x3A phases.length) []))
    (phases.flatMap (fun p => waitAnswers p.2)) (phases.map Prod.fst)

/-- The premises of a receive's expansion, met by `receiveRun phases`. -/
def ReceivePremises (phases : List (Byte × Nat)) : Prop :=
  let s := receiveRun phases
  s.resetLine = false ∧ s.st = .idle ∧ s.knownIdle 0 = true ∧ 1 ≤ phases.length ∧ phases.length ≤ s.cfg.rxMax ∧
    s.host = .transfer (headerWord s.cfg.widths true 0 0x3A phases.length) [] :: [] ∧
    s.oracle.polls = phases.flatMap (fun p => waitAnswers p.2) ++ [] ∧
    s.oracle.gets = phases.map Prod.fst ++ [] ∧
    ∀ p ∈ phases, ∀ n, s.cfg.pollLimit.samples = some n → p.2 < n

theorem receiveRun_meets {phases : List (Byte × Nat)} (h : 1 ≤ phases.length ∧ phases.length ≤ 255)
    (hw : ∀ p ∈ phases, p.2 < 3) : ReceivePremises phases :=
  ⟨rfl, rfl, (by decide : ready.knownIdle 0 = true), h.1, h.2, rfl, (List.append_nil _).symm, (List.append_nil _).symm,
    fun p hp n hn => by cases hn; exact hw p hp⟩

/-- 95 P2, operation 3: two bytes, waits of 1 and 3 samples; and the shortest and the longest receive. -/
theorem witness_ReceiveHasItsExpansion :
    ReceivePremises [(0xAB, 0), (0xCD, 2)] ∧ ReceivePremises [(0x42, 2)] ∧
      ReceivePremises (List.replicate 255 (0xA5, 1)) :=
  ⟨receiveRun_meets (by decide) (by decide), receiveRun_meets (by decide) (by decide),
    receiveRun_meets (by rw [List.length_replicate]; decide) (fun p hp => by rw [List.eq_of_mem_replicate hp]; decide)⟩

/-- Three bytes, the wait of the second sees three busy answers. -/
theorem witness_SendTimeoutHasItsPrefix :
    let phases : List (Byte × Nat) := [(1, 1)]
    let s := answering (asking ready (.transfer (headerWord .standard false 0 0x90 3) [1, 2, 3]))
      [true, false, true, true, true] []
    s.resetLine = false ∧ s.st = .idle ∧ s.knownIdle 0 = true ∧ phases.length + 1 + [(3 : Byte)].length ≤ 30 ∧
      phases.length + 1 + [(3 : Byte)].length ≤ s.cfg.rxMax ∧
      s.cfg.pollLimit.samples = some 3 ∧
      s.host = .transfer (headerWord .standard false 0 0x90 (phases.length + 1 + [(3 : Byte)].length))
        (phases.map Prod.fst ++ 2 :: [3]) :: [] ∧
      s.oracle.polls = phases.flatMap (fun p => waitAnswers p.2) ++ List.replicate 3 true ++ [] ∧
      ∀ p ∈ phases, p.2 < 3 :=
  ⟨rfl, rfl, by decide, by decide, by decide, rfl, rfl, rfl, by decide⟩

/-- 95 P3, operation 6: three bytes, one fetched after one busy answer, then three busy answers. -/
theorem witness_ReceiveTimeoutHasItsPrefix :
    let phases : List (Byte × Nat) := [(0x42, 1)]
    let s := answering (asking ready (.transfer (headerWord .standard true 0 0x90 3) [])) [true, false, true, true, true] [0x42]
    s.resetLine = false ∧ s.st = .idle ∧ s.knownIdle 0 = true ∧ phases.length < 3 ∧ 3 ≤ s.cfg.rxMax ∧
      s.cfg.pollLimit.samples = some 3 ∧ s.host = .transfer (headerWord .standard true 0 0x90 3) [] :: [] ∧
      s.oracle.polls = phases.flatMap (fun p => waitAnswers p.2) ++ List.replicate 3 true ++ [] ∧
      s.oracle.gets = phases.map Prod.fst ++ [] ∧ ∀ p ∈ phases, p.2 < 3 :=
  ⟨rfl, rfl, by decide, by decide, by decide, rfl, rfl, rfl, rfl, by decide⟩

theorem witness_TransactionCompletesWithinBound :
    Inv (sending .sAddr 3 0) ∧ (sending .sAddr 3 0).resetLine = false ∧ (sending .sAddr 3 0).st = .sAddr ∧
      (sending .sAddr 3 0).knownIdle (sending .sAddr 3 0).bus = true ∧
      (sending .sAddr 3 0).cfg.pollLimit.samples = some 3 ∧
      Inv (receiving .rAddr 255 0) ∧ (receiving .rAddr 255 0).st = .rAddr :=
  ⟨inv_sending rfl (by decide) (fun _ => rfl), rfl, rfl, by decide, rfl,
    inv_receiving rfl (by decide) (by decide) (fun _ => rfl), rfl⟩

theorem witness_EndlessWaitIsKept :
    let s : State := { answering (sending .sPoll 3 1) [true, true, true, true, false] [] with
      cfg := { cfg with pollLimit := .inf } }
    s.resetLine = false ∧ s.st = .sPoll ∧ s.cfg.pollLimit = .inf ∧ s.oracle.polls = List.replicate 4 true ++ [false] :=
  ⟨rfl, rfl, rfl, rfl⟩

end Sys2Proof.Tests
end

section
/-! PROOFS. The request is sampled once (10 R23): what keeps the operand latches, and that a running transaction never
looks at the host's requests. -/

namespace Sys2Proof.Machine

variable {s t : State}

/-- Only an accepted request takes the machine out of `IDLE`, and only it writes the operand latches. -/
theorem StepForm.keeps_operandLatches (hf : StepForm s t) (hna : s.st ≠ .idle ∨ t.st = .idle) :
    t.op = s.op ∧ t.bus = s.bus ∧ t.a7 = s.a7 ∧ t.len = s.len ∧ t.buf = s.buf := by
  cases hf
  case sendAccepted _ _ _ st _ _ _ next | receiveAccepted _ _ _ st _ _ _ next => subst next; simp [st] at hna
  case claimGranted next => subst next; simp
  all_goals subst t; exact ⟨rfl, rfl, rfl, rfl, rfl⟩

/-- The same machine with `h` as the host's requests still to present. -/
def State.withHost (s : State) (h : List Request) : State := { s with host := h }

/-- What a micro-operation tests and what it answers never mention the host's list, so the same case of the transition
table applies under any other list. -/
theorem step_withHost (h : List Request) (hr : s.resetLine = false) (hi : s.st ≠ .idle) (hs : step s = .next t) :
    step (s.withHost h) = .next (t.withHost h) := by
  have poll (st : s.st = .sPoll ∨ s.st = .rPoll) : step (s.withHost h) = .next (s.withHost h).sample :=
    step_poll (s := s.withHost h) hr st
  have get (idle : s.knownIdle s.bus = true) (st : s.st = .rGet) (lt : s.idx < s.len) :
      step (s.withHost h) = .next (s.withHost h).fetchByte :=
    (step_rGet (s := s.withHost h) hr st).trans ((if_pos idle).trans (if_pos lt))
  cases step_form hr hs with
  | quiet st | claimGranted _ _ st | claimExhausted st | sendInvalid _ st | sendAccepted _ _ _ st
  | receiveInvalid st | receiveAccepted _ _ _ st => exact absurd st hi
  | addressSend st idle next => subst next; exact (step_sAddr (s := s.withHost h) hr st).trans (if_pos idle)
  | addressReceive st idle next => subst next; exact (step_rAddr (s := s.withHost h) hr st).trans (if_pos idle)
  | put v st byte idle next => subst next; exact (step_sPut (s := s.withHost h) hr st byte).trans (if_pos idle)
  | commandSend k st kind idle next =>
    subst next; exact (step_sCmd (s := s.withHost h) hr st kind).trans (if_pos idle)
  | commandReceive k st kind idle next =>
    subst next; exact (step_rCmd (s := s.withHost h) hr st kind).trans (if_pos idle)
  | busyCounted st answer limit next =>
    subst next; rw [poll st, State.sample_counted (s := s.withHost h) answer limit]; rfl
  | timeout st answer limit next =>
    subst next; rw [poll st, State.sample_timeout (s := s.withHost h) answer limit]; rfl
  | sendPhaseEnds st answer more next =>
    subst next; rw [poll (.inl st), State.sample_next_phase (s := s.withHost h) answer st more]; rfl
  | sendEnds st answer last next =>
    subst next; rw [poll (.inl st), State.sample_last_phase (s := s.withHost h) answer st last]; rfl
  | receiveReady st answer next =>
    subst next; rw [poll (.inr st), State.sample_to_get (s := s.withHost h) answer st]; rfl
  | byteDelivered st idle more next =>
    subst next
    rw [get idle st (by omega), State.fetchByte_next_phase (s := s.withHost h) more.ne]; rfl
  | receiveEnds st idle last next =>
    subst next
    rw [get idle st (by omega), State.fetchByte_last_phase (s := s.withHost h) last]; rfl

/-- Settles O45, by the cases of the transition table. -/
theorem operandLatchesHoldUntilAcceptance : Obligations.OperandLatchesHoldUntilAcceptance :=
  ⟨fun _ _ hr hs hna => (step_form hr hs).keeps_operandLatches hna, fun _ _ h hr hi hs => step_withHost h hr hi hs⟩

end Sys2Proof.Machine
end

section
/-! PROOFS. The target address (30 R74): what stripping the low bit does to the number, and that an acceptance uses the
address through nothing else. -/

namespace Sys2Proof.Machine

variable {s t : State} {b : BusIndex} {a a' : BitVec 8} {d : List Byte} {n : Nat}

theorem targetAddress_toNat (a : BitVec 8) : (targetAddress a).toNat = a.toNat / 2 := by
  have half : a.toNat / 2 < 2 ^ 7 := by have := a.isLt; omega
  rw [targetAddress, BitVec.extractLsb'_toNat, Nat.shiftRight_eq_div_pow, pow_one, Nat.mod_eq_of_lt half]

/-- An address with the target `a7` is `a7` above any low bit. -/
theorem targetAddress_append (a7 : Addr7) (low : BitVec 1) : targetAddress (a7 ++ low) = a7 :=
  (extract_high a7 low 0 7).trans (extract_all a7)

theorem State.latch_congr (h : targetAddress a = targetAddress a') (s : State) (op : Op) (b : BusIndex) (n : Nat)
    (st : SeqState) : s.latch op b a n st = s.latch op b a' n st := by
  rw [State.latch, h, State.latch]

theorem exec_send_congr (h : targetAddress a = targetAddress a') : exec (.send b a d) s = exec (.send b a' d) s := by
  show execSend b a d s = execSend b a' d s
  rw [execSend, State.latch_congr h, execSend]

theorem exec_receive_congr (h : targetAddress a = targetAddress a') :
    exec (.receive b a n) s = exec (.receive b a' n) s := by
  show execReceive b a n s = execReceive b a' n s
  rw [execReceive, State.latch_congr h, execReceive]

/-- A `SEND` that starts a transaction was a valid one, whose latches R101 writes. -/
theorem exec_send_latches_a7 (h : exec (.send b a d) s = .next t) (st : t.st = .sAddr) : t.a7 = targetAddress a := by
  obtain ⟨-, -, -, ht⟩ := exec_send_next.1 h
  split at ht <;> subst ht
  · exact State.latch_a7 ..
  · exact absurd st (by simp)

/-- A `RECEIVE` that starts a transaction was a valid one, whose latches R121 writes. -/
theorem exec_receive_latches_a7 (h : exec (.receive b a n) s = .next t) (st : t.st = .rAddr) :
    t.a7 = targetAddress a := by
  obtain ⟨-, -, -, ht⟩ := exec_receive_next.1 h
  split at ht <;> subst ht
  · exact State.latch_a7 ..
  · exact absurd st (by simp)

/-- The micro-operation named where a send begins (R103). -/
theorem State.namedOp_sAddr (st : s.st = .sAddr) : s.namedOp = .next (.addrSet s.a7 false) := by
  simp [State.namedOp, st]

/-- The micro-operation named where a receive begins (R122). -/
theorem State.namedOp_rAddr (st : s.st = .rAddr) : s.namedOp = .next (.addrSet s.a7 true) := by
  simp [State.namedOp, st]

/-- Settles O10: the acceptance latches the target of the address and nothing else of it, and the next `ADDR_SET` takes
the latch. -/
theorem targetAddressStripsLowBit : Obligations.TargetAddressStripsLowBit := by
  refine ⟨targetAddress_toNat, fun s b a a' d n h => ⟨exec_send_congr h, exec_receive_congr h⟩,
    fun a7 => ⟨a7 ++ 0#1, targetAddress_append a7 0⟩, fun s t b a d h st => ?_, fun s t b a n h st => ?_,
    by decide, by decide⟩
  · rw [State.namedOp_sAddr st, exec_send_latches_a7 h st]
  · rw [State.namedOp_rAddr st, exec_receive_latches_a7 h st]

end Sys2Proof.Machine
end

section
/-! PROOFS. `CLAIM` (40 R90 to R94): what `exec` answers with a descriptor left and with none, and which handles are
claimed after a grant. -/

namespace Sys2Proof.Machine

variable {s : State}

/-- `CLAIM` in `IDLE` with a descriptor left (R93). -/
theorem exec_claim_grants (d c : Nat) (st : s.st = .idle) (room : s.claims.toNat < s.cfg.numBuses) :
    exec (.claim d c) s = .next (s.consumeRequest.grantClaim d c) :=
  exec_claim_next.2 ⟨st, (if_pos room).symm⟩

/-- `CLAIM` in `IDLE` with no descriptor left (R92). -/
theorem exec_claim_exhausts (d c : Nat) (st : s.st = .idle) (full : s.cfg.numBuses ≤ s.claims.toNat) :
    exec (.claim d c) s = .next s.consumeRequest.exhaustClaim :=
  exec_claim_next.2 ⟨st, (if_neg full.not_gt).symm⟩

/-- The handles below `CLAIMS + 1` are those below `CLAIMS` and `CLAIMS` itself, the handle handed out (R93). -/
theorem State.grantClaim_claimed (d c : Nat) (room : s.claims.toNat < s.cfg.numBuses) (b : BusIndex) :
    (s.grantClaim d c).claimed b = true ↔ s.claimed b = true ∨ b = s.nextHandle := by
  rw [State.claimed_iff, State.claimed_iff, State.grantClaim_claims d c room, Nat.lt_succ_iff_lt_or_eq,
    ← BitVec.toNat_inj, State.nextHandle_toNat room]

/-- A grant writes no other bus's port. -/
theorem State.grantClaim_port_other (d c : Nat) {b : BusIndex} (hb : b ≠ s.nextHandle) :
    (s.grantClaim d c).port b = s.port b := by
  rw [State.grantClaim_port, if_neg hb]

/-- Settles O14: the handle is `nextHandle`, the frequency the `SYSCLK` answer, and the last clause is the frame of the
grant. -/
theorem claimGrantsNextDescriptor : Obligations.ClaimGrantsNextDescriptor := by
  intro s d c st room
  exact ⟨_, exec_claim_grants d c st room, s.nextHandle, s.clockAnswer,
    State.nextHandle_toNat room,
    State.grantClaim_claims (s := s.consumeRequest) d c room,
    State.grantClaim_result (s := s.consumeRequest) d c room,
    State.grantClaim_trace (s := s.consumeRequest) d c,
    State.grantClaim_claimed (s := s.consumeRequest) d c room,
    fun _ => State.grantClaim_port_other (s := s.consumeRequest) d c,
    State.grantClaim_frame (s := s.consumeRequest) d c⟩

/-- The result word of an exhausted `CLAIM` (R80, R92). -/
theorem formatS_resourceExhausted : formatS .resourceExhausted 0 = 0x0300 := by decide

/-- Settles O16: exhaustion writes the registry port alone, and the acceptance takes the request from the host's list. -/
theorem claimExhaustedChangesNothing : Obligations.ClaimExhaustedChangesNothing := by
  intro s d c st full
  refine ⟨_, exec_claim_exhausts d c st full.ge, ?_⟩
  rw [State.exhaustClaim, formatS_resourceExhausted, State.consumeRequest]

end Sys2Proof.Machine
end

section
/-! PROOFS. Frame control (41 R104): the four places a phase can have in a transaction, whatever commands stand there, and
the domain on which a send reads them. -/

namespace Sys2Proof.Machine

section framePlace

variable {single start continue_ finish : CmdKind} {len idx : Nat}

theorem framePlace_single : framePlace single start continue_ finish 1 0 = some single := rfl

theorem framePlace_start (more : 1 < len) : framePlace single start continue_ finish len 0 = some start := by
  rw [framePlace, if_pos (by omega), if_neg more.ne', if_pos rfl]

theorem framePlace_continue (first : 0 < idx) (last : idx + 1 < len) :
    framePlace single start continue_ finish len idx = some continue_ := by
  rw [framePlace, if_pos (by omega), if_neg (by omega), if_neg first.ne', if_pos last]

theorem framePlace_finish (first : 0 < idx) : framePlace single start continue_ finish (idx + 1) idx = some finish := by
  rw [framePlace, if_pos idx.lt_succ_self, if_neg (by omega), if_neg first.ne', if_neg (Nat.lt_irrefl _)]

end framePlace

variable {len idx : Nat}

/-- Up to `TX_MAX` bytes the kind of a send is the kind of its place. -/
theorem sendKind_eq_framePlace (h : len ≤ 30) :
    sendKind len idx = framePlace .singleSend .burstStart .burstContinue .burstFinish len idx :=
  if_pos h

/-- Settles O11, place by place; a kind exists only in the domain. -/
theorem sendKindTable : Obligations.SendKindTable := by
  intro len idx
  constructor
  · rintro ⟨-, le, lt⟩
    rw [sendKind_eq_framePlace le]
    refine ⟨?single, ?start, fun _ first mid => framePlace_continue first (by omega), ?finish⟩
    case single =>
      rintro rfl
      obtain rfl : idx = 0 := by omega
      exact framePlace_single
    case start =>
      rintro more rfl
      exact framePlace_start more
    case finish =>
      intro more last
      obtain rfl : len = idx + 1 := by omega
      exact framePlace_finish (by omega)
  · intro outside
    refine Option.eq_none_iff_forall_ne_some.2 fun k hk => outside ?_
    obtain ⟨lt, le⟩ := sendKind_domain hk
    exact ⟨by omega, le, lt⟩

end Sys2Proof.Machine
end

section
/-! PROOFS. Acceptance of a `SEND` (41 R101, R102): what `exec` answers for a length in `TX_MIN..TX_MAX` and for another,
and what staging leaves in `BUF`. -/

namespace Sys2Proof.Machine

variable {s : State} {b : BusIndex} {a : BitVec 8} {d : List Byte}

/-- A `SEND` of 1 to 30 bytes stages them and writes the latches (R101). -/
theorem exec_send_accepts (st : s.st = .idle) (claimed : s.claimed b = true) (fits : d.length ≤ s.cfg.rxMax)
    (valid : 1 ≤ d.length ∧ d.length ≤ 30) :
    exec (.send b a d) s = .next ((s.consumeRequest.stage d).latch .send b a d.length .sAddr) :=
  exec_send_next.2 ⟨st, claimed, fits, (if_pos ((sendLengthValid_iff _).2 valid)).symm⟩

/-- A `SEND` of any other expressible length raises `INVALID_LENGTH` (R101, R162). -/
theorem exec_send_rejects (st : s.st = .idle) (claimed : s.claimed b = true) (fits : d.length ≤ s.cfg.rxMax)
    (invalid : ¬ (1 ≤ d.length ∧ d.length ≤ 30)) :
    exec (.send b a d) s = .next (s.consumeRequest.raise .invalidLength d.length) :=
  exec_send_next.2 ⟨st, claimed, fits, (if_neg (mt (sendLengthValid_iff _).1 invalid)).symm⟩

/-- Byte `i` of the input is in cell `i` (R102). -/
theorem State.stage_read_staged (s : State) {i : Nat} (h : i < d.length) : (s.stage d).buf.read i = d[i]? := by
  rw [State.stage_buf, Memory.read_writeFrom, if_pos (by omega), Nat.sub_zero]

/-- The cells from `d.length` on are not written (R102). -/
theorem State.stage_read_beyond (s : State) {i : Nat} (h : d.length ≤ i) :
    (s.stage d).buf.read i = s.buf.read i := by
  rw [State.stage_buf, Memory.read_writeFrom, if_neg (by omega)]

/-- Settles O19: a bad length only raises the error; a good one stages and latches, and each of the two leaves the rest
as it was. -/
theorem sendAcceptance : Obligations.SendAcceptance := by
  intro s b a d st claimed fits
  constructor
  · intro bad
    exact ⟨_, exec_send_rejects st claimed fits (by omega), rfl⟩
  · intro good
    exact ⟨_, exec_send_accepts st claimed fits good,
      fun _ => s.consumeRequest.stage_read_staged,
      fun _ => s.consumeRequest.stage_read_beyond, rfl⟩

end Sys2Proof.Machine
end

section
/-! PROOFS. Frame control of a receive (42 R123): the domain on which a receive reads a kind, and its codes against the
send's of the same phase. -/

namespace Sys2Proof.Machine

open Safety (expansionKind)

variable {w : Widths} {len idx : Nat} {k j : CmdKind}

/-- A kind of a receive exists only up to `RX_MAX` bytes (R123). -/
theorem recvKind_length_fits (h : recvKind w len idx = some k) : len ≤ w.rxMax :=
  (Option.ite_none_right_eq_some.1 h).1

/-- At each of the four places the receive's code is four above the send's (R79, R123). -/
theorem expansionKind_receive_code (n i : Nat) :
    (expansionKind .singleReceive .burstReceiveStart .burstReceiveContinue .burstReceiveFinish n i).code =
      (expansionKind .singleSend .burstStart .burstContinue .burstFinish n i).code + 4 := by
  unfold expansionKind
  split_ifs <;> rfl

/-- `recv_kind = send_kind + 4` as codes, wherever both are defined (R123). -/
theorem recvKind_code_eq_sendKind_code_add_four (hk : sendKind len idx = some k) (hj : recvKind w len idx = some j) :
    j.code = k.code + 4 := by
  obtain ⟨lt, le⟩ := sendKind_domain hk
  rw [sendKind_expansion lt le] at hk
  rw [recvKind_expansion lt (recvKind_length_fits hj)] at hj
  cases hk
  cases hj
  exact expansionKind_receive_code len idx

/-- Settles O12: on the domain the kind is the expansion's, read place by place; a kind exists only in the domain. -/
theorem receiveKindTable : Obligations.ReceiveKindTable := by
  intro w len idx
  refine ⟨?places, ?outside, fun _ _ => recvKind_code_eq_sendKind_code_add_four⟩
  case places =>
    rintro ⟨-, fits, lt⟩
    rw [recvKind_expansion lt fits, expansionKind]
    refine ⟨?only, ?first, ?inner, ?last⟩
    case only =>
      intro one
      rw [if_pos one]
    case first =>
      intro more first
      rw [if_neg more.ne', if_pos first]
    case inner =>
      intro more started before
      rw [if_neg more.ne', if_neg started.ne', if_neg before.ne]
    case last =>
      intro more last
      rw [if_neg more.ne', if_neg (by omega), if_pos last]
  case outside =>
    intro outside
    refine Option.eq_none_iff_forall_ne_some.2 fun k hk => outside ?_
    have lt := recvKind_domain hk
    exact ⟨by omega, recvKind_length_fits hk, lt⟩

end Sys2Proof.Machine
end

section
/-! PROOFS. Acceptance of a `RECEIVE` (42 R121): what `exec` answers for length 0 and for any other. -/

namespace Sys2Proof.Machine

variable {s : State} {b : BusIndex} {a : BitVec 8} {n : Nat}

/-- A `RECEIVE` of one byte or more only writes the latches: nothing is staged (R121). -/
theorem exec_receive_accepts (st : s.st = .idle) (claimed : s.claimed b = true) (fits : n ≤ s.cfg.rxMax)
    (valid : 1 ≤ n) : exec (.receive b a n) s = .next (s.consumeRequest.latch .receive b a n .rAddr) :=
  exec_receive_next.2 ⟨st, claimed, fits, (if_pos ((receiveLengthValid_iff n).2 valid)).symm⟩

/-- A `RECEIVE` of no byte raises `INVALID_LENGTH` (R121, R162). -/
theorem exec_receive_rejects (st : s.st = .idle) (claimed : s.claimed b = true) :
    exec (.receive b a 0) s = .next (s.consumeRequest.raise .invalidLength 0) :=
  exec_receive_next.2 ⟨st, claimed, Nat.zero_le _, rfl⟩

/-- Settles O20: length 0 only raises the error, any other only latches, and each of the two leaves the rest as it
was. -/
theorem receiveAcceptance : Obligations.ReceiveAcceptance := by
  intro s b a n st claimed fits
  constructor
  · rintro rfl
    exact ⟨_, exec_receive_rejects st claimed, rfl⟩
  · intro nonzero
    exact ⟨_, exec_receive_accepts st claimed fits (Nat.one_le_iff_ne_zero.2 nonzero), rfl⟩

end Sys2Proof.Machine
end

section
/-! PROOFS. The end of the last phase (60 R165): what `exec` answers for `POLL` in a wait and for `GET`, and that both
complete with `IDX` at `LEN`. -/

namespace Sys2Proof.Machine

variable {s : State}

/-- The micro-operation named in a wait (R107, R125). -/
theorem State.namedOp_wait (st : s.st = .sPoll ∨ s.st = .rPoll) : s.namedOp = .next .poll := by
  rcases st with st | st <;> simp [State.namedOp, st]

/-- The micro-operation named where a byte is fetched (R126). -/
theorem State.namedOp_rGet (st : s.st = .rGet) : s.namedOp = .next .get := by
  simp [State.namedOp, st]

/-- `POLL` in a wait is one sample, on whatever bus (R153). -/
theorem exec_poll_samples (st : s.st = .sPoll ∨ s.st = .rPoll) : exec .poll s = .next s.sample :=
  State.emitting_named (State.namedOp_wait st)

/-- `GET` on a bus known idle, at an index within `LEN`, delivers the byte (R126). -/
theorem exec_get_fetches (st : s.st = .rGet) (idle : s.knownIdle s.bus = true) (lt : s.idx < s.len) :
    exec .get s = .next s.fetchByte :=
  (State.emittingKnownIdle_named (State.namedOp_rGet st)).trans ((if_pos idle).trans (if_pos lt))

/-- The byte fetched in the last phase is in `RX[IDX]`, and no other cell is written (R126). -/
theorem State.fetchByte_last_phase_read (last : s.idx + 1 = s.len) (i : Nat) :
    s.fetchByte.rx.read i = if i = s.idx then some s.getAnswer else s.rx.read i := by
  rw [State.fetchByte_last_phase last]
  exact s.rx.read_write s.idx i s.getAnswer

/-- Settles O31: an idle `POLL` in a send and `GET` in a receive complete with `IDX + 1`, which in the last phase is
`LEN`. -/
theorem lastPhaseCompletesOk : Obligations.LastPhaseCompletesOk := by
  constructor
  · intro s st answer last
    refine ⟨_, exec_poll_samples (.inl st), ?_⟩
    rw [State.sample_last_phase answer st last, last]
  · intro s st idle last
    refine ⟨_, exec_get_fetches st idle (by omega),
      (State.fetchByte_last_phase_read last s.idx).trans (if_pos rfl),
      fun i other => (State.fetchByte_last_phase_read last i).trans (if_neg other), ?_⟩
    rw [State.fetchByte_last_phase last, last]

end Sys2Proof.Machine
end

section
/-! PROOFS. A handle that was never claimed (60 R170): admission refuses it before it looks at the operation's own
answer, in which the length check stands. -/

namespace Sys2Proof.Machine

variable {s : State} {b : BusIndex}

/-- A handle at or above `CLAIMS` is not claimed (R93). -/
theorem State.claimed_eq_false (unclaimed : s.claims.toNat ≤ b.toNat) : s.claimed b = false :=
  decide_eq_false unclaimed.not_gt

/-- In `IDLE` admission refuses an unclaimed handle, whatever the operation would answer (R170, R172). -/
theorem State.admitting_unclaimed (st : s.st = .idle) (unclaimed : s.claimed b = false)
    (o : Host.Outcome State Fault Refusal) : s.admitting b o = .refused .unclaimedHandle := by
  rw [State.admitting, if_pos st, unclaimed]
  rfl

/-- Settles O21: both operations are admitted by the same check, which no operand but the handle enters. -/
theorem unclaimedHandleRefused : Obligations.UnclaimedHandleRefused := by
  intro s b a n d st le
  have unclaimed : s.claimed b = false := State.claimed_eq_false le
  exact ⟨State.admitting_unclaimed st unclaimed _, State.admitting_unclaimed st unclaimed _⟩

end Sys2Proof.Machine
end

section
/-! PROOFS. The words that carry operations (30 R72 to R83): the fields of a `CLAIM` word and of a header word, what the
micro-operation decoder accepts, and that decoder and encoder are each other's inverse at every width. -/

namespace Sys2Proof

open Safety (IsMicro)

/-! ### Format K -/

theorem claimWord_dataPin {w : Widths} {d c : Nat} (h : c < 2 ^ w.pinW) : claimWord w d c / 2 ^ w.pinW = d := by
  rw [claimWord, Nat.add_comm, Nat.add_mul_div_right _ _ (Nat.two_pow_pos _), Nat.div_eq_of_lt h, Nat.zero_add]

theorem claimWord_clockPin {w : Widths} {d c : Nat} (h : c < 2 ^ w.pinW) : claimWord w d c % 2 ^ w.pinW = c := by
  rw [claimWord, Nat.add_comm, Nat.add_mul_mod_self_right, Nat.mod_eq_of_lt h]

theorem claimWord_fields (w : Widths) (word : Nat) : claimWord w (word / 2 ^ w.pinW) (word % 2 ^ w.pinW) = word :=
  Nat.div_add_mod' word _

theorem decodeClaim_claimWord {w : Widths} {d c : Nat} (hd : d < 2 ^ w.pinW) (hc : c < 2 ^ w.pinW) :
    decodeClaim w (claimWord w d c) = .ok (.claim d c) := by
  rw [decodeClaim, claimWord_dataPin hc, claimWord_clockPin hc, if_pos hd]

/-! ### Format H -/

/-- The part of a header above `LEN` (R72): `{OP, BUS, ADDR}`. -/
def headerRest (o : Bool) (b : BusIndex) (a : BitVec 8) : Nat := (o.toNat * 128 + b.toNat) * 256 + a.toNat

theorem headerRest_lt (o : Bool) (b : BusIndex) (a : BitVec 8) : headerRest o b a < 65536 := by
  have hb := b.isLt
  have ha := a.isLt
  have ho := o.toNat_le
  unfold headerRest; omega

theorem headerRest_op (o : Bool) (b : BusIndex) (a : BitVec 8) : headerRest o b a / 32768 = o.toNat := by
  have hb := b.isLt
  have ha := a.isLt
  unfold headerRest; omega

theorem headerRest_addr (o : Bool) (b : BusIndex) (a : BitVec 8) : BitVec.ofNat 8 (headerRest o b a) = a := by
  have ha := a.isLt
  apply BitVec.eq_of_toNat_eq
  rw [BitVec.toNat_ofNat, headerRest]; omega

theorem headerRest_bus (o : Bool) (b : BusIndex) (a : BitVec 8) : BitVec.ofNat 7 (headerRest o b a / 256) = b := by
  have hb := b.isLt
  have ha := a.isLt
  apply BitVec.eq_of_toNat_eq
  rw [BitVec.toNat_ofNat, headerRest]; omega

/-- A number of 16 bits is the upper part of the header of its own fields. -/
theorem headerRest_fields {rest : Nat} {o : Bool} (h : rest < 65536) (ho : rest / 32768 = o.toNat) :
    headerRest o (BitVec.ofNat 7 (rest / 256)) (BitVec.ofNat 8 rest) = rest := by
  rw [headerRest, BitVec.toNat_ofNat, BitVec.toNat_ofNat]; omega

/-- What the decoder reads in a header word: the operation by `OP`, and the count of the bytes that come with it. -/
theorem decodeTransfer_headerWord {w : Widths} {n : Nat} (o : Bool) (b : BusIndex) (a : BitVec 8) (data : List Byte)
    (h : n < 2 ^ w.lenW) :
    decodeTransfer w (headerWord w o b a n) data =
      if o.toNat = 1 then (if data = [] then .ok (.receive b a n) else .reject .dataCount)
      else if data.length = n then .ok (.send b a data) else .reject .dataCount := by
  have rest : headerWord w o b a n / 2 ^ w.lenW = headerRest o b a := headerWord_rest o b a h
  simp only [decodeTransfer, headerWord_len o b a h, rest, if_neg (headerRest_lt o b a).not_ge, headerRest_op,
    headerRest_addr, headerRest_bus]

theorem headerWord_fields {w : Widths} {h : Nat} {o : Bool} (narrow : h / 2 ^ w.lenW < 65536)
    (ho : h / 2 ^ w.lenW / 32768 = o.toNat) :
    headerWord w o (BitVec.ofNat 7 (h / 2 ^ w.lenW / 256)) (BitVec.ofNat 8 (h / 2 ^ w.lenW)) (h % 2 ^ w.lenW) = h := by
  have rest := headerRest_fields narrow ho
  unfold headerRest at rest
  rw [headerWord, rest, Nat.div_add_mod']

/-- What decodes in format H is well formed, and its header is the one read. -/
theorem decodeTransfer_ok {w : Widths} {h : Nat} {data : List Byte} {i : Instr} (hd : decodeTransfer w h data = .ok i) :
    i.wellFormed w = true ∧ encode w i = .request (.transfer h data) := by
  have fits : h % 2 ^ w.lenW ≤ w.rxMax := (w.le_rxMax_iff _).2 (Nat.mod_lt _ (Nat.two_pow_pos _))
  simp only [decodeTransfer] at hd
  split at hd
  · cases hd
  next narrow =>
  split at hd
  · next op =>
    split at hd <;> cases hd
    next empty =>
    subst empty
    refine ⟨decide_eq_true fits, ?_⟩
    rw [encode, headerWord_fields (o := true) (by omega) op]
  · next op =>
    split at hd <;> cases hd
    next count =>
    refine ⟨decide_eq_true (count ▸ fits), ?_⟩
    have zero : h / 2 ^ w.lenW / 32768 = 0 := by
      generalize h / 2 ^ w.lenW = rest at narrow op ⊢; omega
    rw [encode, count, headerWord_fields (o := false) (by omega) zero]

/-! ### Format M -/

theorem microWord_fields (w : BitVec 12) : microWord (w.extractLsb' 8 4) (w.extractLsb' 0 8) = w := by
  apply BitVec.eq_of_getLsbD_eq
  intro i hi
  simp only [microWord, BitVec.getLsbD_append, BitVec.getLsbD_extractLsb']
  split
  · simp [*]
  · rw [show 8 + (i - 8) = i by omega]; simp; omega

/-- The payload of `ADDR_SET` is the address above the direction (R78). -/
theorem addrPayload_fields (w : BitVec 12) : addrPayload (w.extractLsb' 1 7) (w.getLsbD 0) = w.extractLsb' 0 8 := by
  apply BitVec.eq_of_getLsbD_eq
  intro i hi
  rw [addrPayload, BitVec.getLsbD_append]
  by_cases h : i = 0
  · subst h; simp
  · simp only [BitVec.getLsbD_extractLsb', if_neg (show ¬ i < 1 by omega), show 1 + (i - 1) = 0 + i by omega, hi]
    simp; omega

/-- The kind of a payload is the one whose word it is (R79). -/
theorem CmdKind.ofCode?_eq_some {p : Byte} {k : CmdKind} : CmdKind.ofCode? p = some k ↔ p = 0#5 ++ k.code := by
  constructor
  · intro h
    have hp : p = BitVec.ofNat 8 p.toNat := by simp
    unfold CmdKind.ofCode? at h
    split at h <;> cases h <;> rw [hp, ‹p.toNat = _›] <;> rfl
  · rintro rfl; cases k <;> rfl

/-- Exactly the payloads 0 to 7 name a kind (R79, R83). -/
theorem CmdKind.exists_ofCode?_iff (p : Byte) : (∃ k, CmdKind.ofCode? p = some k) ↔ p.toNat ≤ 7 := by
  unfold CmdKind.ofCode?
  split
  case h_9 => simp only [imp_false, reduceCtorEq, exists_false, false_iff] at *; omega
  all_goals simp [*]

/-- What the micro-operation decoder accepts, class by class (R77 to R79). -/
theorem decodeMicro_ok_iff {w : BitVec 12} {i : Instr} :
    decodeMicro w = .ok i ↔
      (w.extractLsb' 8 4 = 1 ∧ i = .addrSet (w.extractLsb' 1 7) (w.getLsbD 0)) ∨
      (w.extractLsb' 8 4 = 2 ∧ i = .put (w.extractLsb' 0 8)) ∨
      (w.extractLsb' 8 4 = 3 ∧ ∃ k, CmdKind.ofCode? (w.extractLsb' 0 8) = some k ∧ i = k.instr) ∨
      (w.extractLsb' 8 4 = 4 ∧ w.extractLsb' 0 8 = 0 ∧ i = .poll) ∨
      (w.extractLsb' 8 4 = 5 ∧ w.extractLsb' 0 8 = 0 ∧ i = .get) := by
  unfold decodeMicro
  generalize w.extractLsb' 8 4 = cls
  simp only [← BitVec.toNat_inj (x := cls)]
  split
  case h_1 c1 => simp [c1, eq_comm]
  case h_2 c2 => simp [c2, eq_comm]
  case h_3 c3 => cases code : CmdKind.ofCode? (w.extractLsb' 0 8) <;> simp [c3, eq_comm]
  case h_4 c4 => by_cases zero : w.extractLsb' 0 8 = 0#8 <;> simp [c4, zero, eq_comm (a := i)]
  case h_5 c5 => by_cases zero : w.extractLsb' 0 8 = 0#8 <;> simp [c5, zero, eq_comm (a := i)]
  case h_6 => simp only [imp_false] at *; simp [*]

/-- What decodes in format M is a micro-operation, and its word is the one read. -/
theorem decodeMicro_ok {w : BitVec 12} {i : Instr} (v : Widths) (h : decodeMicro w = .ok i) :
    IsMicro i = true ∧ encode v i = .micro w := by
  rw [← microWord_fields w]
  rcases decodeMicro_ok_iff.1 h with ⟨cls, rfl⟩ | ⟨cls, rfl⟩ | ⟨cls, k, code, rfl⟩ | ⟨cls, zero, rfl⟩ |
    ⟨cls, zero, rfl⟩ <;> rw [cls]
  · exact ⟨rfl, by rw [encode, addrPayload_fields]⟩
  · exact ⟨rfl, rfl⟩
  · rw [CmdKind.ofCode?_eq_some.1 code]
    cases k <;> exact ⟨rfl, rfl⟩
  · rw [zero]; exact ⟨rfl, rfl⟩
  · rw [zero]; exact ⟨rfl, rfl⟩

/-! ### The obligations -/

/-- Settles O6, format by format: a word's fields are read back because they do not overlap. -/
theorem decodeEncodeRoundTrip : Obligations.DecodeEncodeRoundTrip := by
  intro w i wf
  cases hm : IsMicro i with
  | true => exact decode_encode_micro w hm
  | false =>
    cases i with
    | claim d c =>
      obtain ⟨hd, hc⟩ := of_decide_eq_true wf
      exact decodeClaim_claimWord hd hc
    | send b a data =>
      have fits := (w.le_rxMax_iff _).1 (of_decide_eq_true wf)
      exact (decodeTransfer_headerWord false b a data fits).trans (if_pos rfl)
    | receive b a n =>
      have fits := (w.le_rxMax_iff _).1 (of_decide_eq_true wf)
      exact decodeTransfer_headerWord true b a [] fits
    | _ => cases hm

/-- A micro-operation has no operand that could be too wide. -/
theorem wellFormed_of_isMicro {i : Instr} (w : Widths) (h : IsMicro i = true) : i.wellFormed w = true := by
  cases i with
  | claim | send | receive => cases h
  | _ => rfl

/-- Settles O7, format by format: the fields the decoder reads make up the whole word. -/
theorem encodeDecodeRoundTrip : Obligations.EncodeDecodeRoundTrip := by
  intro w c i h
  cases c with
  | micro word =>
    obtain ⟨hm, he⟩ := decodeMicro_ok w h
    exact ⟨wellFormed_of_isMicro w hm, he⟩
  | request r =>
    cases r with
    | transfer hd data => exact decodeTransfer_ok h
    | claim word =>
      simp only [decode, decodeClaim] at h
      split at h <;> cases h
      next pin =>
        exact ⟨decide_eq_true ⟨pin, Nat.mod_lt _ (Nat.two_pow_pos _)⟩, by rw [encode, claimWord_fields]⟩

/-- Settles O9: the classes of the decoder's inversion, each with an instruction exactly for its payloads. -/
theorem assignedMicroWords : Obligations.AssignedMicroWords := by
  intro v w
  show (∃ i, decodeMicro w = .ok i) ↔ _
  rw [← CmdKind.exists_ofCode?_iff]
  constructor
  · rintro ⟨i, h⟩
    rcases decodeMicro_ok_iff.1 h with ⟨cls, -⟩ | ⟨cls, -⟩ | ⟨cls, k, code, -⟩ | ⟨cls, zero, -⟩ | ⟨cls, zero, -⟩
    · exact .inl cls
    · exact .inr (.inl cls)
    · exact .inr (.inr (.inl ⟨cls, k, code⟩))
    · exact .inr (.inr (.inr (.inl ⟨cls, zero⟩)))
    · exact .inr (.inr (.inr (.inr ⟨cls, zero⟩)))
  · rintro (cls | cls | ⟨cls, k, code⟩ | ⟨cls, zero⟩ | ⟨cls, zero⟩)
    · exact ⟨_, decodeMicro_ok_iff.2 (.inl ⟨cls, rfl⟩)⟩
    · exact ⟨_, decodeMicro_ok_iff.2 (.inr (.inl ⟨cls, rfl⟩))⟩
    · exact ⟨_, decodeMicro_ok_iff.2 (.inr (.inr (.inl ⟨cls, k, code, rfl⟩)))⟩
    · exact ⟨_, decodeMicro_ok_iff.2 (.inr (.inr (.inr (.inl ⟨cls, zero, rfl⟩))))⟩
    · exact ⟨_, decodeMicro_ok_iff.2 (.inr (.inr (.inr (.inr ⟨cls, zero, rfl⟩))))⟩

/-- Settles O8: ten fixed words and three rejected ones, each evaluated by the decoder. -/
theorem specWordsDecode : Obligations.SpecWordsDecode := by
  unfold Obligations.SpecWordsDecode
  decide

theorem headerWord_standard (o : Bool) (b : BusIndex) (a : BitVec 8) (n : Nat) :
    headerWord .standard o b a n = o.toNat * 2 ^ 23 + b.toNat * 2 ^ 16 + a.toNat * 2 ^ 8 + n := by
  rw [headerWord, show Widths.standard.lenW = 8 from rfl]
  ring

theorem headerWord_lt {w : Widths} {n : Nat} (o : Bool) (b : BusIndex) (a : BitVec 8) (h : n ≤ w.rxMax) :
    headerWord w o b a n < 2 ^ (16 + w.lenW) := by
  have len := (w.le_rxMax_iff n).1 h
  calc headerWord w o b a n = headerRest o b a * 2 ^ w.lenW + n := rfl
    _ < (headerRest o b a + 1) * 2 ^ w.lenW := by rw [Nat.succ_mul]; omega
    _ ≤ 65536 * 2 ^ w.lenW := Nat.mul_le_mul_right _ (headerRest_lt o b a)
    _ = 2 ^ (16 + w.lenW) := (pow_add 2 16 w.lenW).symm

theorem claimWord_lt {w : Widths} {p q : Nat} (hp : p < 2 ^ w.pinW) (hq : q < 2 ^ w.pinW) :
    claimWord w p q < 2 ^ (2 * w.pinW) :=
  calc claimWord w p q < (p + 1) * 2 ^ w.pinW := by rw [claimWord, Nat.succ_mul]; omega
    _ ≤ 2 ^ w.pinW * 2 ^ w.pinW := Nat.mul_le_mul_right _ hp
    _ = 2 ^ (2 * w.pinW) := by rw [← pow_add, two_mul]

/-- Settles O57. -/
theorem requestFields : Obligations.RequestFields :=
  ⟨fun o b a n _ => headerWord_standard o b a n, fun _ _ => rfl, fun _ o b a _ => headerWord_lt o b a,
    fun _ _ _ => claimWord_lt⟩

end Sys2Proof
end

section
/-! PROOFS. What a step leaves unchanged (10 R23, R29, R37; 41 R111; 42 R130), one lemma per part of the state, each
by the cases of the transition table. -/

namespace Sys2Proof.Machine

variable {s t : State}

/-- No step writes the configuration (R37). -/
theorem StepForm.keeps_cfg (hf : StepForm s t) : t.cfg = s.cfg := by
  cases hf
  case claimGranted next => subst next; simp
  all_goals subst t; rfl

theorem StepForm.keeps_resetLine (hf : StepForm s t) : t.resetLine = s.resetLine := by
  cases hf
  case claimGranted next => subst next; simp
  all_goals subst t; rfl

/-- Only `GET` writes the receive storage, at `IDX` (R126). -/
theorem StepForm.rx_eq (hf : StepForm s t) :
    t.rx = if s.st = .rGet then s.rx.write s.idx s.getAnswer else s.rx := by
  cases hf
  case byteDelivered st _ _ next | receiveEnds st _ _ next => subst next; rw [if_pos st]
  case busyCounted st _ _ next | timeout st _ _ next => subst next; rcases st with st | st <;> simp [st]
  all_goals subst t; simp [*, State.programAddress, State.issue]

/-- In a transaction the registry and the host's list are left alone (R111, R130). -/
theorem StepForm.keeps_registry (hf : StepForm s t) (hs : s.st ≠ .idle) :
    t.claims = s.claims ∧ t.registryPort = s.registryPort ∧ t.host = s.host := by
  cases hf
  case quiet st _ _ | claimGranted st _ _ | claimExhausted st _ _ | sendInvalid st _ _ _ | sendAccepted st _ _ _ _
    | receiveInvalid st _ | receiveAccepted st _ _ _ _ => exact absurd st hs
  all_goals subst t; exact ⟨rfl, rfl, rfl⟩

/-- In a transaction no port but that of `BUS` is written (R64). -/
theorem StepForm.keeps_other_ports (hf : StepForm s t) (hs : s.st ≠ .idle) {b : BusIndex} (hb : b ≠ s.bus) :
    t.port b = s.port b := by
  cases hf
  case quiet st _ _ | claimGranted st _ _ | claimExhausted st _ _ | sendInvalid st _ _ _ | sendAccepted st _ _ _ _
    | receiveInvalid st _ | receiveAccepted st _ _ _ _ => exact absurd st hs
  case busyCounted | timeout | byteDelivered | receiveEnds => subst t; rfl
  all_goals subst t; exact State.port_of_setPort_other _ rfl hb

/-- The result registers are written only by a step that completes (R28). -/
theorem StepForm.result_eq_or_completes (hf : StepForm s t) :
    t.status = s.status ∧ t.remaining = s.remaining ∧
        (t.done = s.done ∨ t.done = false ∧ s.st = .idle ∧ t.st ≠ .idle) ∨
      (t.st = .idle ∧ t.done = true) := by
  cases hf
  case sendInvalid | receiveInvalid | timeout | sendEnds | receiveEnds => subst t; exact .inr ⟨rfl, rfl⟩
  case claimGranted next => subst next; simp
  case sendAccepted st _ _ _ next | receiveAccepted st _ _ _ next =>
    subst next; exact .inl ⟨rfl, rfl, .inr ⟨rfl, st, by simp⟩⟩
  all_goals subst t; exact .inl ⟨rfl, rfl, .inl rfl⟩

/-- A step inside a transaction that does not end it. -/
structure SameTransaction (s t : State) : Prop where
  cfg : t.cfg = s.cfg
  op : t.op = s.op
  bus : t.bus = s.bus
  a7 : t.a7 = s.a7
  len : t.len = s.len
  buf : t.buf = s.buf
  claims : t.claims = s.claims
  status : t.status = s.status
  remaining : t.remaining = s.remaining
  done : t.done = s.done
  /-- it stays a send, or a receive (R33) -/
  send : t.st.isSend = s.st.isSend
  receive : t.st.isReceive = s.st.isReceive
  /-- and never goes back to the start -/
  started : ¬ (t.st = .sAddr ∨ t.st = .rAddr)

/-- A running send stays a send, a running receive a receive, and neither goes back to its start (R33). -/
theorem StepForm.keeps_direction (hf : StepForm s t) (hs : s.st ≠ .idle) (ht : t.st ≠ .idle) :
    t.st.isSend = s.st.isSend ∧ t.st.isReceive = s.st.isReceive ∧ ¬ (t.st = .sAddr ∨ t.st = .rAddr) := by
  cases hf
  case quiet st _ _ | claimGranted st _ _ | claimExhausted st _ _ | sendInvalid st _ _ _ | sendAccepted st _ _ _ _
    | receiveInvalid st _ | receiveAccepted st _ _ _ _ => exact absurd st hs
  case timeout next | sendEnds next | receiveEnds next => subst next; exact absurd rfl ht
  case busyCounted st _ _ next => subst next; rcases st with st | st <;> simp [st]
  case commandSend st kind _ next =>
    subst next; simp [State.issue, sendKind_waitState kind, st, SeqState.isSend, SeqState.isReceive]
  case commandReceive st kind _ next =>
    subst next; simp [State.issue, recvKind_waitState kind, st, SeqState.isSend, SeqState.isReceive]
  all_goals subst t; simp [*, SeqState.isSend, SeqState.isReceive]

theorem StepForm.sameTransaction (hf : StepForm s t) (hs : s.st ≠ .idle) (ht : t.st ≠ .idle) :
    SameTransaction s t := by
  obtain ⟨op, bus, a7, len, buf⟩ := hf.keeps_operandLatches (.inl hs)
  obtain ⟨claims, -, -⟩ := hf.keeps_registry hs
  obtain ⟨status, remaining, done⟩ := hf.result_eq_or_completes.resolve_right fun h => ht h.1
  obtain ⟨send, receive, started⟩ := hf.keeps_direction hs ht
  exact ⟨hf.keeps_cfg, op, bus, a7, len, buf, claims, status, remaining, done.resolve_right fun h => hs h.2.1, send,
    receive, started⟩

end Sys2Proof.Machine
end

section
/-! PROOFS. The datapath invariant (10 R32) is kept: its clauses after a step, by the cases of the transition table,
then the three kinds of step (one that ends in `IDLE`, one that accepts a request, one inside a transaction). -/

namespace Sys2Proof.Safety

open Sys2Proof.Machine

variable {s t : State}

/-- In `IDLE` the invariant speaks of the registry, the storage and the result alone. -/
theorem Inv.of_idle (st : t.st = .idle) (claims : t.claims.toNat ≤ t.cfg.numBuses)
    (buf : t.buf.wf ∧ ∀ c ∈ t.buf, c.1 < 30)
    (lengths : t.len ≤ t.cfg.rxMax ∧ t.idx ≤ t.cfg.rxMax ∧ t.remaining ≤ t.cfg.rxMax)
    (rx : t.rx.wf ∧ ∀ c ∈ t.rx, c.1 < t.cfg.rxMax) (status : t.status ≠ .resourceExhausted) : Inv t where
  phase h := absurd st h
  claimedBus h := absurd st h
  sendOp h := by simp [st, SeqState.isSend] at h
  receiveOp h := by simp [st, SeqState.isReceive] at h
  firstPhase h := by simp [st] at h
  waitBound h := by simp [st] at h
  claimsBound := claims
  notDone h := absurd st h
  staged h := by simp [st, SeqState.isSend] at h
  bufForm := buf
  lengths := lengths
  rxForm := rx
  knownIdle h := by simp [st] at h
  transferStatus := status

/-- The reset event meets the invariant, whatever was running (R190). -/
theorem Inv.applyReset (hI : Inv s) : Inv s.applyReset :=
  .of_idle rfl (Nat.zero_le _) ⟨List.Pairwise.nil, fun _ h => by cases h⟩
    ⟨Nat.zero_le _, Nat.zero_le _, Nat.zero_le _⟩ hI.rxForm (by simp)

/-- The state after reset meets the invariant, on every platform. -/
theorem inv_resetOn (c : Config) : Inv (State.resetOn c) :=
  .of_idle rfl (Nat.zero_le _) ⟨List.Pairwise.nil, fun _ h => by cases h⟩
    ⟨Nat.zero_le _, Nat.zero_le _, Nat.zero_le _⟩ ⟨List.Pairwise.nil, fun _ h => by cases h⟩
    (by simp [State.resetOn])

/-- Every port is settled at power-on (log 7). -/
theorem settled_resetOn (c : Config) : Settled (State.resetOn c) := by
  intro b hb
  simp [State.port, State.resetOn, Port.powerOn] at hb

/-- A bus the host has restored is one more bus known idle. -/
theorem Inv.busRestored (hI : Inv s) (b : BusIndex) : Inv (s.busRestored b) :=
  { hI with
    knownIdle := fun st => by
      obtain ⟨claimed, settled⟩ := (State.knownIdle_iff s s.bus).1 (hI.knownIdle st)
      refine (State.knownIdle_iff _ _).2 ⟨claimed, ?_⟩
      rw [State.busRestored, State.port_setUnsettled]
      split
      · rfl
      · exact settled }

end Sys2Proof.Safety

namespace Sys2Proof.Machine

open Safety

variable {s t : State}

theorem pollLimit_samples_pos {l : PollLimit} {n : Nat} (h : l.samples = some n) : 0 < n := by
  cases l <;> cases h
  exact Nat.succ_pos _

/-- A counted busy answer leaves `PCNT` below the limit (R26, R32(d)). -/
theorem State.pcnt_succ_lt {n : Nat} (limit : s.atPollLimit = false) (samples : s.cfg.pollLimit.samples = some n)
    (lt : s.pcnt < n) : s.pcnt + 1 < n := by
  have ne : n ≠ s.pcnt + 1 := fun e => by
    have hit := s.atPollLimit_iff.2 (e ▸ samples)
    rw [limit] at hit; cases hit
  omega

/-! ### The clauses after a step -/

theorem StepForm.claims_le (hI : Inv s) (hf : StepForm s t) : t.claims.toNat ≤ s.cfg.numBuses := by
  have old := hI.claimsBound
  cases hf
  case claimGranted d c st room next =>
    subst next
    rw [State.grantClaim_claims (s := s.consumeRequest) d c room]
    exact room
  all_goals subst t; exact old

theorem StepForm.bufForm (hI : Inv s) (hf : StepForm s t) : t.buf.wf ∧ ∀ c ∈ t.buf, c.1 < 30 := by
  obtain ⟨wf, low⟩ := hI.bufForm
  cases hf
  case sendAccepted d _ _ len _ next =>
    subst next
    refine ⟨Memory.wf_writeFrom 0 d wf, fun c hc => ?_⟩
    rcases Memory.mem_writeFrom hc with ⟨-, lt⟩ | old
    · omega
    · exact low c old
  case claimGranted next => subst next; simpa using hI.bufForm
  all_goals subst t; exact ⟨wf, low⟩

theorem StepForm.rxForm (hI : Inv s) (hf : StepForm s t) : t.rx.wf ∧ ∀ c ∈ t.rx, c.1 < s.cfg.rxMax := by
  obtain ⟨wf, low⟩ := hI.rxForm
  rw [hf.rx_eq]
  split
  · next st =>
    obtain ⟨-, lt⟩ := hI.phase (by simp [st])
    refine ⟨Memory.wf_write _ _ wf, fun c hc => ?_⟩
    rcases Memory.mem_write hc with rfl | old
    · exact lt.trans_le hI.lengths.1
    · exact low c old
  · exact ⟨wf, low⟩

theorem StepForm.lengths (hI : Inv s) (hf : StepForm s t) :
    t.len ≤ s.cfg.rxMax ∧ t.idx ≤ s.cfg.rxMax ∧ t.remaining ≤ s.cfg.rxMax := by
  obtain ⟨len, idx, remaining⟩ := hI.lengths
  cases hf
  case claimGranted next => subst next; simpa using hI.lengths
  case sendInvalid fits next => subst next; exact ⟨len, idx, fits⟩
  case sendAccepted fits next | receiveAccepted fits next => subst next; exact ⟨fits, Nat.zero_le _, remaining⟩
  case receiveInvalid next => subst next; exact ⟨len, idx, Nat.zero_le _⟩
  case timeout next => subst next; exact ⟨len, idx, (Nat.sub_le _ _).trans len⟩
  case sendPhaseEnds st _ _ next =>
    subst next; exact ⟨len, (hI.phase (by simp [st])).2.trans_le len, remaining⟩
  case byteDelivered more next => subst next; exact ⟨len, more.le.trans len, remaining⟩
  case sendEnds last next | receiveEnds last next => subst next; exact ⟨len, last.le.trans len, Nat.zero_le _⟩
  all_goals subst t; exact ⟨len, idx, remaining⟩

theorem StepForm.transferStatus (hI : Inv s) (hf : StepForm s t) : t.status ≠ .resourceExhausted := by
  have old := hI.transferStatus
  cases hf
  case sendInvalid next | receiveInvalid next | timeout next | sendEnds next | receiveEnds next => subst next; simp
  case claimGranted next => subst next; simpa using old
  all_goals subst t; exact old

/-- Inside a transaction `IDX` stays below `LEN`. -/
theorem StepForm.idx_lt (hI : Inv s) (hf : StepForm s t) (hs : s.st ≠ .idle) (ht : t.st ≠ .idle) : t.idx < s.len := by
  obtain ⟨-, lt⟩ := hI.phase hs
  cases hf
  case claimGranted st _ _ => exact absurd st hs
  case sendAccepted st _ _ _ _ | receiveAccepted st _ _ _ _ => exact absurd st hs
  case sendPhaseEnds more next => subst next; exact lt_of_le_of_ne lt more
  case byteDelivered more next => subst next; exact more
  case sendEnds next | receiveEnds next => subst next; exact absurd rfl ht
  all_goals subst t; exact lt

/-- A wait is entered with `PCNT = 0` and goes on below the limit. -/
theorem StepForm.waitBound (hI : Inv s) (hf : StepForm s t) (wait : t.st = .sPoll ∨ t.st = .rPoll) {n : Nat}
    (samples : s.cfg.pollLimit.samples = some n) : t.pcnt < n := by
  cases hf
  case quiet next => subst next; exact hI.waitBound wait n samples
  case commandSend next | commandReceive next => subst next; exact pollLimit_samples_pos samples
  case busyCounted st _ limit next =>
    subst next; exact State.pcnt_succ_lt limit samples (hI.waitBound st n samples)
  case claimGranted st _ next => subst next; simp [st] at wait
  all_goals subst t; simp_all

/-- Before `PUT`, `CMD` and `GET` the bus is known idle: it was before an `ADDR_SET`, a `PUT` or a `GET`, or the answer
just was (R61). -/
theorem StepForm.knownIdle_next (hf : StepForm s t) (hs : s.st ≠ .idle) (claimed : s.claimed s.bus = true)
    (st : t.st = .sPut ∨ t.st = .sCmd ∨ t.st = .rCmd ∨ t.st = .rGet) : t.knownIdle s.bus = true := by
  have settled (idle : s.knownIdle s.bus = true) : (s.port s.bus).unsettled = false :=
    ((s.knownIdle_iff s.bus).1 idle).2
  cases hf
  case quiet st _ _ | claimGranted st _ _ | claimExhausted st _ _ | sendInvalid st _ _ _ | sendAccepted st _ _ _ _
    | receiveInvalid st _ | receiveAccepted st _ _ _ _ => exact absurd st hs
  case addressSend idle next | addressReceive idle next | put idle next =>
    subst next; exact State.knownIdle_of_setPort (s := s) rfl rfl claimed (settled idle)
  case sendPhaseEnds next | receiveReady next =>
    subst next
    exact State.knownIdle_of_setPort (s := s) (p := { s.port s.bus with unsettled := false }) rfl rfl claimed rfl
  case byteDelivered idle _ next => subst next; exact idle
  case commandSend kind _ next => subst next; simp [State.issue, sendKind_waitState kind] at st
  case commandReceive kind _ next => subst next; simp [State.issue, recvKind_waitState kind] at st
  case busyCounted wait _ _ next => subst next; rcases wait with wait | wait <;> simp [wait] at st
  case timeout next | sendEnds next | receiveEnds next => subst next; simp at st

/-! ### The three kinds of step -/

theorem StepForm.inv_of_ends (hI : Inv s) (hf : StepForm s t) (ht : t.st = .idle) : Inv t :=
  .of_idle ht (hf.keeps_cfg ▸ hf.claims_le hI) (hf.bufForm hI) (hf.keeps_cfg ▸ hf.lengths hI)
    (hf.keeps_cfg ▸ hf.rxForm hI) (hf.transferStatus hI)

/-- Acceptance (R101, R121): the latches are written, and a send's bytes are staged. -/
theorem StepForm.inv_of_accepts (hI : Inv s) (hf : StepForm s t) (hs : s.st = .idle) (ht : t.st ≠ .idle) : Inv t := by
  have cfg := hf.keeps_cfg
  have claims := hf.claims_le hI
  have buf := hf.bufForm hI
  have lengths := hf.lengths hI
  have rx := hf.rxForm hI
  have status := hf.transferStatus hI
  cases hf
  case sendAccepted b a d _ claimed len _ next =>
    subst next
    exact {
      phase := fun _ => ⟨len.1, len.1⟩
      claimedBus := fun _ => claimed
      sendOp := fun _ => ⟨rfl, len.2⟩
      receiveOp := fun h => by cases h
      firstPhase := fun _ => rfl
      waitBound := fun h => by simp at h
      claimsBound := claims
      notDone := fun _ => rfl
      staged := fun _ i hi => by
        rw [State.latch_buf, State.stage_read_staged _ hi, List.getElem?_eq_getElem hi, Option.isSome_some]
      bufForm := buf
      lengths := lengths
      rxForm := rx
      knownIdle := fun h => by simp at h
      transferStatus := status }
  case receiveAccepted b a n _ claimed len _ next =>
    subst next
    exact {
      phase := fun _ => ⟨len, len⟩
      claimedBus := fun _ => claimed
      sendOp := fun h => by cases h
      receiveOp := fun _ => rfl
      firstPhase := fun _ => rfl
      waitBound := fun h => by simp at h
      claimsBound := claims
      notDone := fun _ => rfl
      staged := fun h => by cases h
      bufForm := buf
      lengths := lengths
      rxForm := rx
      knownIdle := fun h => by simp at h
      transferStatus := status }
  case quiet next => subst next; exact hI
  case claimGranted next => subst next; simp [hs] at ht
  case claimExhausted next | sendInvalid next | receiveInvalid next => subst next; simp [hs] at ht
  all_goals simp_all

/-- Inside a transaction the latches stand still, so that only the phase, the wait, `RX` and the bus are looked at. -/
theorem StepForm.inv_of_goes_on (hI : Inv s) (hf : StepForm s t) (hs : s.st ≠ .idle) (ht : t.st ≠ .idle) : Inv t := by
  have h := hf.sameTransaction hs ht
  have claimed := hI.claimedBus hs
  exact {
    phase := fun _ => by rw [h.len]; exact ⟨(hI.phase hs).1, hf.idx_lt hI hs ht⟩
    claimedBus := fun _ => by rw [h.bus, State.claimed, h.claims]; exact claimed
    sendOp := fun d => by rw [h.op, h.len]; exact hI.sendOp (h.send ▸ d)
    receiveOp := fun d => by rw [h.op]; exact hI.receiveOp (h.receive ▸ d)
    firstPhase := fun st => absurd st h.started
    waitBound := fun wait n samples => hf.waitBound hI wait (h.cfg ▸ samples)
    claimsBound := by rw [h.claims, h.cfg]; exact hI.claimsBound
    notDone := fun _ => h.done.trans (hI.notDone hs)
    staged := fun d => by rw [h.len, h.buf]; exact hI.staged (h.send ▸ d)
    bufForm := hf.bufForm hI
    lengths := by rw [h.cfg]; exact hf.lengths hI
    rxForm := by rw [h.cfg]; exact hf.rxForm hI
    knownIdle := fun st => by rw [h.bus]; exact hf.knownIdle_next hs claimed st
    transferStatus := hf.transferStatus hI }

theorem StepForm.keeps_inv (hI : Inv s) (hf : StepForm s t) : Inv t := by
  by_cases ht : t.st = .idle
  · exact StepForm.inv_of_ends hI hf ht
  · by_cases hs : s.st = .idle
    · exact StepForm.inv_of_accepts hI hf hs ht
    · exact StepForm.inv_of_goes_on hI hf hs ht

/-- Settles O37: the reset event, or a step of one of the forms. -/
theorem stepKeepsDatapathInvariant : Obligations.StepKeepsDatapathInvariant := by
  intro s t hI h
  cases hr : s.resetLine with
  | true =>
    rw [step_reset hr] at h
    cases h
    exact hI.applyReset
  | false => exact StepForm.keeps_inv hI (step_form hr h)

/-- Settles O36. -/
theorem invariantsHoldAtReset : Obligations.InvariantsHoldAtReset :=
  ⟨fun c => ⟨inv_resetOn c, settled_resetOn c, trivial⟩, inv_resetOn _, settled_resetOn _, trivial⟩

/-- Settles O38, by induction on how the state is reached. -/
theorem reachableStatesMeetInvariant : Obligations.ReachableStatesMeetInvariant := by
  intro s h
  induction h with
  | reset c => exact inv_resetOn c
  | step _ hstep ih => exact stepKeepsDatapathInvariant _ _ ih hstep
  | resetEvent _ ih => exact ih.applyReset
  | present r _ ih => exact { ih with }
  | answers o _ ih => exact { ih with }
  | busRestored b _ ih => exact ih.busRestored b

end Sys2Proof.Machine
end

section
/-! PROOFS. What the invariant leaves a step to stop on (60 R169, R170; 93 U4, U12), and the laws of the bus and of the
trace that every step keeps (20 R61, 43 R156). -/

namespace Sys2Proof.Safety

open Sys2Proof.Machine

variable {s t : State}

/-- A claimed bus on which no wait runs is known idle. -/
theorem Settled.knownIdle (h : Settled s) (claimed : s.claimed s.bus = true)
    (wait : ¬ (s.st = .sPoll ∨ s.st = .rPoll)) :
    s.knownIdle s.bus = true := by
  refine (s.knownIdle_iff _).2 ⟨claimed, ?_⟩
  by_contra outstanding
  exact wait (h s.bus (by simpa using outstanding)).1

/-- With no command outstanding a step that writes no mark keeps it so, unless it ends the running wait. -/
theorem Settled.of_marks (h : Settled s) (marks : ∀ b, (t.port b).unsettled = (s.port b).unsettled)
    (wait : s.st = .sPoll ∨ s.st = .rPoll → (t.st = .sPoll ∨ t.st = .rPoll) ∧ t.bus = s.bus) : Settled t := by
  intro b hb
  obtain ⟨st, rfl⟩ := h b (marks b ▸ hb)
  exact ⟨(wait st).1, (wait st).2.symm⟩

/-- An idle answer leaves no command outstanding at all. -/
theorem Settled.of_idle_answer (h : Settled s)
    (ports : t.ports = (s.setPort s.bus { s.port s.bus with unsettled := false }).ports) : Settled t := by
  intro b hb
  by_cases hbus : b = s.bus
  · subst hbus
    rw [State.port_of_setPort_same _ ports] at hb
    cases hb
  · rw [State.port_of_setPort_other _ ports hbus] at hb
    exact absurd (h b hb).2 hbus

/-- A command is outstanding on its own bus alone, for the wait it begins. -/
theorem Settled.issue {k : CmdKind} (h : Settled s) (wait : waitAfter k = .sPoll ∨ waitAfter k = .rPoll) :
    Settled (s.issue k) := by
  intro b hb
  refine ⟨wait, ?_⟩
  by_contra hbus
  have other : (s.issue k).port b = s.port b := State.port_of_setPort_other _ rfl hbus
  exact hbus (h b (other ▸ hb)).2

end Sys2Proof.Safety

namespace Sys2Proof.Machine

open Safety

variable {s t : State}

/-- In `IDLE` a request is executed, or it names an unclaimed handle, or it is no request (R169, R170). -/
theorem step_idle_outcomes (hr : s.resetLine = false) (st : s.st = .idle) :
    (∃ t, step s = .next t) ∨ step s = .refused .unclaimedHandle ∨ ∃ e, step s = .refused (.badEncoding e) := by
  cases hh : s.host with
  | nil => exact .inl ⟨_, step_quiet hr st hh⟩
  | cons r rest =>
    rw [step_request hr st hh]
    cases hd : decode s.cfg.widths (.request r) with
    | reject e => exact .inr (.inr ⟨e, rfl⟩)
    | ok i =>
      rcases decode_request_cases hd with ⟨d, c, rfl⟩ | ⟨b, a, d, rfl⟩ | ⟨b, a, n, rfl⟩
      · exact .inl ⟨_, exec_claim_next.2 ⟨st, rfl⟩⟩
      · cases hc : s.claimed b with
        | false => exact .inr (.inl (State.admitting_unclaimed st hc _))
        | true => exact .inl ⟨_, exec_send_next.2 ⟨st, hc, decode_length_fits (.inl ⟨hd, rfl⟩), rfl⟩⟩
      · cases hc : s.claimed b with
        | false => exact .inr (.inl (State.admitting_unclaimed st hc _))
        | true => exact .inl ⟨_, exec_receive_next.2 ⟨st, hc, decode_length_fits (d := []) (.inr hd), rfl⟩⟩

/-- The staged byte of the running phase can be read (R27(c), R50). -/
theorem bufRead_staged (hI : Inv s) (st : s.st = .sPut) :
    ∃ v, s.buf.read s.idx = some v ∧ s.bufRead s.idx = .next v := by
  obtain ⟨-, lt⟩ := hI.phase (by simp [st])
  have send : s.st.isSend = true := by rw [st]; rfl
  obtain ⟨v, hv⟩ := Option.isSome_iff_exists.1 (hI.staged send s.idx lt)
  have le := (hI.sendOp send).2
  exact ⟨v, hv, State.bufRead_next.2 ⟨by omega, hv⟩⟩

/-- In a transaction a step answers a next state, but where it starts on a bus not known idle (93 U4). -/
theorem step_running_outcomes (hI : Inv s) (hr : s.resetLine = false) (hs : s.st ≠ .idle) :
    (∃ t, step s = .next t) ∨
      step s = .fault .busNotKnownIdle ∧ (s.st = .sAddr ∨ s.st = .rAddr) ∧ s.knownIdle s.bus = false := by
  obtain ⟨-, lt⟩ := hI.phase hs
  cases st : s.st with
  | idle => exact absurd st hs
  | sAddr =>
    rw [step_sAddr hr st]
    cases idle : s.knownIdle s.bus with
    | true => exact .inl ⟨_, rfl⟩
    | false => exact .inr ⟨rfl, .inl rfl, rfl⟩
  | rAddr =>
    rw [step_rAddr hr st]
    cases idle : s.knownIdle s.bus with
    | true => exact .inl ⟨_, rfl⟩
    | false => exact .inr ⟨rfl, .inr rfl, rfl⟩
  | sPut =>
    obtain ⟨v, -, hv⟩ := bufRead_staged hI st
    exact .inl ⟨_, (step_sPut hr st hv).trans (if_pos (hI.knownIdle (by simp [st])))⟩
  | sCmd =>
    obtain ⟨k, hk⟩ := sendKind_isSome lt (hI.sendOp (by rw [st]; rfl)).2
    exact .inl ⟨_, (step_sCmd hr st hk).trans (if_pos (hI.knownIdle (by simp [st])))⟩
  | rCmd =>
    obtain ⟨k, hk⟩ := recvKind_isSome lt hI.lengths.1
    exact .inl ⟨_, (step_rCmd hr st hk).trans (if_pos (hI.knownIdle (by simp [st])))⟩
  | sPoll => exact .inl ⟨_, step_poll hr (.inl st)⟩
  | rPoll => exact .inl ⟨_, step_poll hr (.inr st)⟩
  | rGet =>
    exact .inl ⟨_, (step_rGet hr st).trans ((if_pos (hI.knownIdle (by simp [st]))).trans (if_pos lt))⟩

/-- Settles O39: the reset event, the outcomes in `IDLE`, the outcomes in a transaction. -/
theorem invariantLeavesOnlyDeclaredStops : Obligations.InvariantLeavesOnlyDeclaredStops := by
  intro s hI
  cases hr : s.resetLine with
  | true => exact .inl ⟨_, step_reset hr⟩
  | false =>
    by_cases hs : s.st = .idle
    · rcases step_idle_outcomes hr hs with next | refused
      · exact .inl next
      · exact .inr (.inr ⟨hs, refused⟩)
    · rcases step_running_outcomes hI hr hs with next | fault
      · exact .inl next
      · exact .inr (.inl fault)

/-! ### The no-overlap law -/

/-- A port written without its mark leaves every mark. -/
theorem State.unsettled_setPort (s : State) {p : Port} {c : BusIndex} (hp : p.unsettled = (s.port c).unsettled)
    (b : BusIndex) : ((s.setPort c p).port b).unsettled = (s.port b).unsettled := by
  rw [State.port_setPort]
  split
  · next e => rw [hp, e]
  · rfl

theorem StepForm.keeps_settled (hf : StepForm s t) (h : Settled s) (timeout : ¬ TimesOut s) : Settled t := by
  cases hf
  case timeout st answer limit _ => exact absurd ⟨st, answer, limit⟩ timeout
  case sendPhaseEnds next | sendEnds next | receiveReady next => subst next; exact h.of_idle_answer rfl
  case commandSend kind _ next => subst next; exact h.issue (.inl (sendKind_waitState kind))
  case commandReceive kind _ next => subst next; exact h.issue (.inr (recvKind_waitState kind))
  case busyCounted st _ _ next => subst next; exact h.of_marks (fun _ => rfl) fun _ => ⟨st, rfl⟩
  case claimGranted d c st _ next =>
    subst next
    refine h.of_marks (fun b => ?_) fun wait => by simp [st] at wait
    exact State.unsettled_setPort _ (p := Port.setUp _ d c _) rfl b
  case addressSend st _ next | addressReceive st _ next | put st _ _ next =>
    subst next
    exact h.of_marks (s.unsettled_setPort rfl) fun wait => by simp [st] at wait
  all_goals subst t; exact h.of_marks (fun _ => rfl) fun wait => by simp_all

/-- Settles O40: a fault needs a bus with a command outstanding where no wait runs. -/
theorem noOverlapLaw : Obligations.NoOverlapLaw := by
  intro s hI h hr
  refine ⟨fun fault => ?_, fun t hstep timeout => (step_form hr hstep).keeps_settled h timeout⟩
  by_cases hs : s.st = .idle
  · rcases step_idle_outcomes hr hs with ⟨t, next⟩ | refused | ⟨e, refused⟩ <;> simp_all
  · rcases step_running_outcomes hI hr hs with ⟨t, next⟩ | ⟨-, st, unknown⟩
    · rw [next] at fault; cases fault
    · have idle := h.knownIdle (hI.claimedBus hs) (by rcases st with st | st <;> simp [st])
      rw [unknown] at idle; cases idle

/-! ### The discipline of the trace -/

theorem StepForm.keeps_lastEventFits (hI : Inv s) (hf : StepForm s t) (h : LastEventFits s) : LastEventFits t := by
  cases hf
  case quiet next => subst next; exact h
  case claimGranted st _ next => subst next; simp [LastEventFits, st]
  case claimExhausted st _ next => subst next; simp [LastEventFits, st]
  case addressSend st _ next => subst next; simp [LastEventFits, State.programAddress, hI.firstPhase (.inl st)]
  case addressReceive st _ next => subst next; simp [LastEventFits, State.programAddress, hI.firstPhase (.inr st)]
  case put v _ byte _ next => subst next; exact ⟨v, (State.bufRead_next.1 byte).2, by simp⟩
  case commandSend k _ kind _ next =>
    subst next; simp [LastEventFits, State.issue, sendKind_waitState kind, kind]
  case commandReceive k _ kind _ next =>
    subst next; simp [LastEventFits, State.issue, recvKind_waitState kind, kind]
  case busyCounted st _ _ next =>
    subst next
    rcases st with st | st <;> simp only [LastEventFits, st] at h ⊢ <;> obtain ⟨k, kind, -⟩ := h <;>
      exact ⟨k, kind, by simp⟩
  case sendPhaseEnds next => subst next; simp [LastEventFits]
  case receiveReady next => subst next; simp [LastEventFits]
  case byteDelivered next => subst next; simp [LastEventFits, Memory.read_write_same]
  all_goals subst t; trivial

/-- Settles O41: after a reset and in `IDLE` there is nothing to fit; every other step appends the event its next state
asks for. -/
theorem stepKeepsTraceDiscipline : Obligations.StepKeepsTraceDiscipline := by
  intro s t hI h hstep
  cases hr : s.resetLine with
  | true =>
    rw [step_reset hr] at hstep
    cases hstep
    trivial
  | false => exact (step_form hr hstep).keeps_lastEventFits hI h

end Sys2Proof.Machine
end

section
/-! PROOFS. The rules of the whole machine (10 R28, R29, R33, R37; 20 R64; 41 R111; 42 R130), from the cases of the
transition table, and that no step depends on a stale scratch cell or on `RX` (10 R27, 20 R51, R63). -/

namespace Sys2Proof.Machine

open Safety

variable {s t : State}

/-- Settles O42, row by row. -/
theorem transitionsFollowTheTable : Obligations.TransitionsFollowTheTable := by
  intro s t hr h
  cases step_form hr h
  case busyCounted st _ _ next => subst next; rcases st with st | st <;> simp [st, Successor]
  case timeout st _ _ next => subst next; rcases st with st | st <;> simp [st, Successor]
  case commandSend st kind _ next => subst next; simp [st, Successor, State.issue, sendKind_waitState kind]
  case commandReceive st kind _ next => subst next; simp [st, Successor, State.issue, recvKind_waitState kind]
  all_goals subst t; simp [*, Successor]

/-- Settles O43. -/
theorem configurationNeverChanges : Obligations.ConfigurationNeverChanges := by
  intro s t h
  cases hr : s.resetLine with
  | true => rw [step_reset hr] at h; cases h; rfl
  | false => exact (step_form hr h).keeps_cfg

/-- Settles O44: only a granted claim writes `CLAIMS`. -/
theorem claimsOnlyGrow : Obligations.ClaimsOnlyGrow := by
  intro s t hr h
  cases step_form hr h
  case claimGranted d c st room next =>
    subst next
    have grown := State.grantClaim_claims (s := s.consumeRequest) d c room
    exact .inr ⟨st, by simpa using st, grown, grown.trans_le room,
      State.grantClaim_result (s := s.consumeRequest) d c room⟩
  all_goals subst t; exact .inl rfl

/-- Settles O46: a micro-operation appends its own event, a granted claim its set-up sequence. -/
theorem traceGrowsByOneEvent : Obligations.TraceGrowsByOneEvent := by
  intro s t hr h
  constructor
  · intro hs
    cases step_form hr h
    case quiet st _ _ | claimGranted st _ _ | claimExhausted st _ _ | sendInvalid st _ _ _ | sendAccepted st _ _ _ _
      | receiveInvalid st _ | receiveAccepted st _ _ _ _ => exact absurd st hs
    all_goals subst t; exact ⟨_, rfl, rfl⟩
  · intro hs
    cases step_form hr h
    case claimGranted d c _ _ next =>
      subst next; exact .inr ⟨_, _, _, _, _, State.grantClaim_trace (s := s.consumeRequest) d c⟩
    case quiet next | claimExhausted next | sendInvalid next | sendAccepted next | receiveInvalid next
      | receiveAccepted next => subst next; exact .inl rfl
    all_goals simp_all

/-- Settles O47. -/
theorem resultRegistersHoldBetweenCompletions : Obligations.ResultRegistersHoldBetweenCompletions := by
  intro s t hr h
  rcases (step_form hr h).result_eq_or_completes with ⟨status, remaining, done⟩ | completes
  · refine ⟨fun changed => ?_, fun changed => .inr (done.resolve_left changed)⟩
    rcases changed with changed | changed
    · exact absurd status changed
    · exact absurd remaining changed
  · exact ⟨fun _ => completes, fun _ => .inl completes.symm⟩

/-- Settles O48. -/
theorem transactionFrame : Obligations.TransactionFrame := by
  intro s t hr hs h
  have hf := step_form hr h
  obtain ⟨claims, registry, host⟩ := hf.keeps_registry hs
  obtain ⟨-, -, -, -, buf⟩ := hf.keeps_operandLatches (.inl hs)
  refine ⟨claims, registry, host, hf.keeps_cfg, fun b => hf.keeps_other_ports hs, fun i => by rw [buf],
    fun send i => ?_⟩
  rw [hf.rx_eq, if_neg fun st => by rw [st] at send; cases send]

/-! ### The two storages -/

/-- The same machine with other contents of `BUF` and `RX`. -/
def State.withStorage (s : State) (m r : Memory) : State := { s with buf := m, rx := r }

/-- In a transaction a step reads of both storages the staged byte of the phase alone, and writes `RX` at `IDX` alone:
with other contents that agree there the same case of the transition table applies. -/
theorem step_withStorage (m r : Memory) (hr : s.resetLine = false) (hi : s.st ≠ .idle)
    (phase : s.st = .sPut → m.read s.idx = s.buf.read s.idx) (hs : step s = .next t) :
    step (s.withStorage m r) =
      .next (t.withStorage m (if s.st = .rGet then r.write s.idx s.getAnswer else r)) := by
  have poll (st : s.st = .sPoll ∨ s.st = .rPoll) : step (s.withStorage m r) = .next (s.withStorage m r).sample :=
    step_poll (s := s.withStorage m r) hr st
  have get (idle : s.knownIdle s.bus = true) (st : s.st = .rGet) (lt : s.idx < s.len) :
      step (s.withStorage m r) = .next (s.withStorage m r).fetchByte :=
    (step_rGet (s := s.withStorage m r) hr st).trans ((if_pos idle).trans (if_pos lt))
  have kept (st : s.st ≠ .rGet) : (if s.st = .rGet then r.write s.idx s.getAnswer else r) = r := if_neg st
  cases step_form hr hs with
  | quiet st | claimGranted _ _ st | claimExhausted st | sendInvalid _ st | sendAccepted _ _ _ st
  | receiveInvalid st | receiveAccepted _ _ _ st => exact absurd st hi
  | addressSend st idle next =>
    subst next; rw [kept (by simp [st])]; exact (step_sAddr (s := s.withStorage m r) hr st).trans (if_pos idle)
  | addressReceive st idle next =>
    subst next; rw [kept (by simp [st])]; exact (step_rAddr (s := s.withStorage m r) hr st).trans (if_pos idle)
  | put v st byte idle next =>
    obtain ⟨lt, staged⟩ := State.bufRead_next.1 byte
    have byte' : (s.withStorage m r).bufRead s.idx = .next v := State.bufRead_next.2 ⟨lt, (phase st).trans staged⟩
    subst next; rw [kept (by simp [st])]
    exact (step_sPut (s := s.withStorage m r) hr st byte').trans (if_pos idle)
  | commandSend k st kind idle next =>
    subst next; rw [kept (by simp [st])]; exact (step_sCmd (s := s.withStorage m r) hr st kind).trans (if_pos idle)
  | commandReceive k st kind idle next =>
    subst next; rw [kept (by simp [st])]; exact (step_rCmd (s := s.withStorage m r) hr st kind).trans (if_pos idle)
  | busyCounted st answer limit next =>
    subst next
    rw [kept (by rcases st with st | st <;> simp [st]), poll st,
      State.sample_counted (s := s.withStorage m r) answer limit]
    rfl
  | timeout st answer limit next =>
    subst next
    rw [kept (by rcases st with st | st <;> simp [st]), poll st,
      State.sample_timeout (s := s.withStorage m r) answer limit]
    rfl
  | sendPhaseEnds st answer more next =>
    subst next
    rw [kept (by simp [st]), poll (.inl st), State.sample_next_phase (s := s.withStorage m r) answer st more]; rfl
  | sendEnds st answer last next =>
    subst next
    rw [kept (by simp [st]), poll (.inl st), State.sample_last_phase (s := s.withStorage m r) answer st last]; rfl
  | receiveReady st answer next =>
    subst next
    rw [kept (by simp [st]), poll (.inr st), State.sample_to_get (s := s.withStorage m r) answer st]; rfl
  | byteDelivered st idle more next =>
    subst next
    rw [if_pos st, get idle st (by omega), State.fetchByte_next_phase (s := s.withStorage m r) more.ne]; rfl
  | receiveEnds st idle last next =>
    subst next
    rw [if_pos st, get idle st (by omega), State.fetchByte_last_phase (s := s.withStorage m r) last]; rfl

/-- Settles O49: in a receive no cell of `BUF` is read, in a send only that of the running phase, which is below
`LEN`. -/
theorem staleScratchNeverMatters : Obligations.StaleScratchNeverMatters := by
  intro s t m hr dir hs
  have running : s.st ≠ .idle := fun st => by simp [st, SeqState.isReceive, SeqState.isSend] at dir
  have phase (st : s.st = .sPut) : m.read s.idx = s.buf.read s.idx := by
    rcases dir with receive | ⟨-, lt, same⟩
    · rw [st] at receive; cases receive
    · exact same s.idx lt
  have h := step_withStorage m s.rx hr running phase hs
  rw [← (step_form hr hs).rx_eq] at h
  exact h

theorem step_request_ok {r : Request} {rest : List Request} {i : Instr} (hr : s.resetLine = false) (hi : s.st = .idle)
    (hh : s.host = r :: rest) (hd : decode s.cfg.widths (.request r) = .ok i) : step s = exec i s := by
  rw [step_request hr hi hh, hd]

/-- A host operation carries `RX` along unread. -/
theorem exec_host_withStorage {i : Instr} (m : Memory) (host : IsMicro i = false) (h : exec i s = .next t) :
    ∃ t', exec i (s.withStorage s.buf m) = .next t' ∧ { t' with rx := t.rx } = t := by
  cases i with
  | claim d c =>
    obtain ⟨st, ht⟩ := exec_claim_next.1 h
    split at ht <;> subst ht
    · next room => exact ⟨_, exec_claim_grants (s := s.withStorage s.buf m) d c st room, rfl⟩
    · next full => exact ⟨_, exec_claim_exhausts (s := s.withStorage s.buf m) d c st (not_lt.1 full), rfl⟩
  | send b a d =>
    obtain ⟨st, claimed, fits, rfl⟩ := exec_send_next.1 h
    refine ⟨_, exec_send_next.2 ⟨st, claimed, fits, rfl⟩, ?_⟩
    split <;> rfl
  | receive b a n =>
    obtain ⟨st, claimed, fits, rfl⟩ := exec_receive_next.1 h
    refine ⟨_, exec_receive_next.2 ⟨st, claimed, fits, rfl⟩, ?_⟩
    split <;> rfl
  | _ => cases host

theorem decode_request_isHost {w : Widths} {r : Request} {i : Instr} (h : decode w (.request r) = .ok i) :
    IsMicro i = false := by
  rcases decode_request_cases h with ⟨_, _, rfl⟩ | ⟨_, _, _, rfl⟩ | ⟨_, _, _, rfl⟩ <;> rfl

/-- Settles O50: a transaction, an acceptance and the reset event only carry `RX` along. -/
theorem receiveStorageNeverRead : Obligations.ReceiveStorageNeverRead := by
  intro s t m hs
  show ∃ t', step (s.withStorage s.buf m) = .next t' ∧ _
  cases hr : s.resetLine with
  | true =>
    rw [step_reset hr] at hs
    cases hs
    exact ⟨_, step_reset (s := s.withStorage s.buf m) hr, rfl⟩
  | false =>
    by_cases hi : s.st = .idle
    · cases hh : s.host with
      | nil =>
        rw [step_quiet hr hi hh] at hs
        cases hs
        exact ⟨_, step_quiet (s := s.withStorage s.buf m) hr hi hh, rfl⟩
      | cons r rest =>
        cases hd : decode s.cfg.widths (.request r) with
        | reject e => rw [step_request hr hi hh, hd] at hs; cases hs
        | ok i =>
          rw [step_request_ok hr hi hh hd] at hs
          rw [step_request_ok (s := s.withStorage s.buf m) hr hi hh hd]
          exact exec_host_withStorage m (decode_request_isHost hd) hs
    · refine ⟨_, step_withStorage s.buf m hr hi (fun _ => rfl) hs, ?_⟩
      obtain ⟨-, -, -, -, buf⟩ := (step_form hr hs).keeps_operandLatches (.inl hi)
      rw [← buf]; rfl

end Sys2Proof.Machine
end

section
/-! PROOFS. What `exec` answers for each micro-operation where the state machine names it, and for each operation
where it does not (10 R33, R34; 43 R141 to R155; 60 R163, R171; 93 U4, U16). -/

namespace Sys2Proof.Machine

open Safety

variable {s t : State}

/-! ### The micro-operations as a whole -/

/-- The twelve micro-operations, the eight commands as one (R143). -/
theorem isMicro_cases {i : Instr} (h : IsMicro i = true) :
    (∃ a7 r, i = .addrSet a7 r) ∨ (∃ v, i = .put v) ∨ (∃ k : CmdKind, i = k.instr) ∨ i = .poll ∨ i = .get := by
  cases i with
  | claim | send | receive => cases h
  | addrSet a7 r => exact .inl ⟨a7, r, rfl⟩
  | put v => exact .inr (.inl ⟨v, rfl⟩)
  | poll => exact .inr (.inr (.inr (.inl rfl)))
  | get => exact .inr (.inr (.inr (.inr rfl)))
  | cmdSingleSend => exact .inr (.inr (.inl ⟨.singleSend, rfl⟩))
  | cmdBurstStart => exact .inr (.inr (.inl ⟨.burstStart, rfl⟩))
  | cmdBurstContinue => exact .inr (.inr (.inl ⟨.burstContinue, rfl⟩))
  | cmdBurstFinish => exact .inr (.inr (.inl ⟨.burstFinish, rfl⟩))
  | cmdSingleReceive => exact .inr (.inr (.inl ⟨.singleReceive, rfl⟩))
  | cmdBurstReceiveStart => exact .inr (.inr (.inl ⟨.burstReceiveStart, rfl⟩))
  | cmdBurstReceiveContinue => exact .inr (.inr (.inl ⟨.burstReceiveContinue, rfl⟩))
  | cmdBurstReceiveFinish => exact .inr (.inr (.inl ⟨.burstReceiveFinish, rfl⟩))

/-- Every micro-operation but `POLL` asks for a bus known idle before its own answer (R201). -/
theorem exec_needsIdleBus {i : Instr} (h : NeedsIdleBus i = true) (s : State) :
    ∃ o, exec i s = s.emittingKnownIdle i o := by
  obtain ⟨micro, notPoll⟩ : IsMicro i = true ∧ i ≠ .poll := by simpa [NeedsIdleBus] using h
  rcases isMicro_cases micro with ⟨a7, r, rfl⟩ | ⟨v, rfl⟩ | ⟨k, rfl⟩ | rfl | rfl
  · exact ⟨_, rfl⟩
  · exact ⟨_, rfl⟩
  · exact ⟨_, exec_instr k s⟩
  · exact absurd rfl notPoll
  · exact ⟨_, rfl⟩

/-- Every micro-operation asks first whether the state machine names it (R33). -/
theorem exec_micro {i : Instr} (h : IsMicro i = true) (s : State) : ∃ o, exec i s = s.emitting i o := by
  by_cases poll : i = .poll
  · subst poll; exact ⟨_, rfl⟩
  · obtain ⟨o, ho⟩ := exec_needsIdleBus (i := i) (by simp [NeedsIdleBus, h, poll]) s
    exact ⟨_, ho⟩

theorem State.namedOp_idle (st : s.st = .idle) : s.namedOp = .refused .notEmitted := by
  simp [State.namedOp, st]

/-- Settles O34. -/
theorem unsettledBusFaults : Obligations.UnsettledBusFaults := by
  intro s i needs named unknown
  obtain ⟨o, ho⟩ := exec_needsIdleBus needs s
  rw [ho, State.emittingKnownIdle_named named, unknown]
  rfl

/-- Settles O35: in `IDLE` nothing is named, elsewhere another micro-operation. -/
theorem onlyTheNamedMicroOperationRuns : Obligations.OnlyTheNamedMicroOperationRuns := by
  intro s i micro
  obtain ⟨o, ho⟩ := exec_micro micro s
  rw [ho]
  constructor
  · intro st
    rw [State.emitting, State.namedOp_idle st]
  · intro j named other
    simp only [State.emitting, named, if_neg other]

/-! ### Each of them where it is named -/

/-- `ADDR_SET` (R103, R122). -/
theorem exec_addrSet_programs {rd : Bool} (st : s.st = if rd then .rAddr else .sAddr)
    (idle : s.knownIdle s.bus = true) :
    exec (.addrSet s.a7 rd) s = .next { s.programAddress s.a7 rd with st := if rd then .rCmd else .sPut } := by
  have named : s.namedOp = .next (.addrSet s.a7 rd) := by
    cases rd with
    | false => exact State.namedOp_sAddr st
    | true => exact State.namedOp_rAddr st
  exact (State.emittingKnownIdle_named named).trans (if_pos idle)

/-- Settles O23. -/
theorem addressSetProgramsTarget : Obligations.AddressSetProgramsTarget :=
  fun _ _ st idle => exec_addrSet_programs st idle

theorem State.namedOp_sPut {v : Byte} (st : s.st = .sPut) (byte : s.bufRead s.idx = .next v) :
    s.namedOp = .next (.put v) := by
  simp [State.namedOp, st, byte]

/-- Settles O24: the invariant has the byte staged and the bus known idle. -/
theorem putLoadsStagedByte : Obligations.PutLoadsStagedByte := by
  intro s hI st
  obtain ⟨v, staged, byte⟩ := bufRead_staged hI st
  exact ⟨v, staged,
    (State.emittingKnownIdle_named (State.namedOp_sPut st byte)).trans (if_pos (hI.knownIdle (.inl st)))⟩

theorem State.namedOp_sCmd {k : CmdKind} (st : s.st = .sCmd) (kind : sendKind s.len s.idx = some k) :
    s.namedOp = .next k.instr := by
  simp [State.namedOp, st, kind]

theorem State.namedOp_rCmd {k : CmdKind} (st : s.st = .rCmd) (kind : recvKind s.cfg.widths s.len s.idx = some k) :
    s.namedOp = .next k.instr := by
  simp [State.namedOp, st, kind]

/-- A named command is issued (R143). -/
theorem exec_command_issues {k : CmdKind} (named : s.namedOp = .next k.instr) (idle : s.knownIdle s.bus = true) :
    exec k.instr s = .next (s.issue k) :=
  (exec_instr k s).trans ((State.emittingKnownIdle_named named).trans (if_pos idle))

/-- Settles O25: the kinds of a send lead to `S_POLL`. -/
theorem sendCommandIssued : Obligations.SendCommandIssued := by
  intro s k st idle kind
  rw [exec_command_issues (State.namedOp_sCmd st kind) idle, State.issue, sendKind_waitState kind]
  rfl

/-- Settles O26: the kinds of a receive lead to `R_POLL`. -/
theorem receiveCommandIssued : Obligations.ReceiveCommandIssued := by
  intro s k st idle kind
  rw [exec_command_issues (State.namedOp_rCmd st kind) idle, State.issue, recvKind_waitState kind]
  rfl

/-- Settles O27. -/
theorem pollIdleEndsSendPhase : Obligations.PollIdleEndsSendPhase := by
  intro s st answer more
  rw [exec_poll_samples (.inl st), State.sample_next_phase answer st more.ne]

/-- Settles O28. -/
theorem pollIdleLeadsToGet : Obligations.PollIdleLeadsToGet := by
  intro s st answer
  rw [exec_poll_samples (.inr st), State.sample_to_get answer st]

/-- Settles O29. -/
theorem pollBusyIsCounted : Obligations.PollBusyIsCounted := by
  intro s st answer early
  have limit : s.atPollLimit = false := by
    rw [← Bool.not_eq_true, State.atPollLimit_iff]; exact early
  rw [exec_poll_samples st, State.sample_counted answer limit]

/-- With `INF` no step makes `STATUS` `BUS_TIMEOUT` (R163). -/
theorem busTimeout_of_step_inf (inf : s.cfg.pollLimit.samples = none) (h : step s = .next t)
    (timeout : t.status = .busTimeout) : s.status = .busTimeout := by
  cases hr : s.resetLine with
  | true => rw [step_reset hr] at h; cases h; cases timeout
  | false =>
    cases step_form hr h
    case timeout limit _ =>
      rw [State.atPollLimit_iff, inf] at limit; cases limit
    case sendInvalid next | receiveInvalid next | sendEnds next | receiveEnds next => subst next; cases timeout
    case claimGranted next => subst next; simpa using timeout
    all_goals subst t; exact timeout

/-- Settles O30: the sample at the limit, and that `INF` has none. -/
theorem pollLimitRaisesBusTimeout : Obligations.PollLimitRaisesBusTimeout := by
  refine ⟨fun s hI st answer last => ?_, fun s t => busTimeout_of_step_inf⟩
  obtain ⟨-, lt⟩ := hI.phase (by rcases st with st | st <;> simp [st])
  refine ⟨?_, by omega, by omega, by omega⟩
  rw [exec_poll_samples st, State.sample_timeout answer (s.atPollLimit_iff.2 last)]

/-- A sample writes the ports on an idle answer alone, and there the mark of bus `BUS` (R61). -/
theorem State.sample_ports (s : State) :
    s.sample.ports = if s.pollAnswer then s.ports else (s.setUnsettled s.bus false).ports := by
  unfold State.sample State.afterBusy State.afterIdle State.endPhase
  split_ifs <;> rfl

theorem State.sample_claims (s : State) : s.sample.claims = s.claims := by
  unfold State.sample State.afterBusy State.afterIdle State.endPhase
  split_ifs <;> rfl

theorem State.sample_host (s : State) : s.sample.host = s.host := by
  unfold State.sample State.afterBusy State.afterIdle State.endPhase
  split_ifs <;> rfl

/-- Settles O32. -/
theorem idleAnswerSettlesBus : Obligations.IdleAnswerSettlesBus := by
  intro s st
  have ports := s.sample_ports
  refine ⟨_, exec_poll_samples st, ?_⟩
  cases answer : s.pollAnswer with
  | true =>
    rw [if_pos answer] at ports
    exact ⟨fun b _ => State.port_congr ports b, fun _ => State.port_congr ports _, fun h => by cases h⟩
  | false =>
    rw [if_neg (by simp [answer])] at ports
    exact ⟨fun b other => State.port_of_setPort_other _ ports other, fun h => (by cases h),
      fun _ => ⟨State.port_of_setPort_same _ ports, fun claimed =>
        State.knownIdle_of_setPort s.sample_claims ports claimed rfl⟩⟩

/-- Settles O33. -/
theorem getDeliversByte : Obligations.GetDeliversByte := by
  intro s st idle more
  refine ⟨_, exec_get_fetches st idle (by omega), ?_⟩
  rw [State.fetchByte_next_phase more.ne]
  exact ⟨s.rx.read_write_same _ _, fun i other => s.rx.read_write_other _ _ _ other, rfl⟩

/-! ### The host operations -/

/-- Settles O18: admission asks for `IDLE` first. -/
theorem hostOperationsHeldWhileRunning : Obligations.HostOperationsHeldWhileRunning :=
  fun _ _ _ _ _ _ _ running => ⟨if_neg running, if_neg running, if_neg running⟩

/-- Settles O15. -/
theorem claimSetsUpController : Obligations.ClaimSetsUpController := by
  intro s d c h st room handle
  have next : h = s.nextHandle := BitVec.eq_of_toNat_eq (handle.trans (State.nextHandle_toNat room).symm)
  subst next
  refine ⟨_, exec_claim_grants d c st room, ?_, ?_⟩
  · rw [State.grantClaim_trace]
    exact List.mem_append_right _ (by simp [claimEvents, State.clockAnswer])
  · exact (State.grantClaim_port (s := s.consumeRequest) d c _).trans (if_pos rfl)

/-- Settles O17: the host operations answer from the state with the request taken, the micro-operations never write the
list. -/
theorem acceptanceConsumesRequest : Obligations.AcceptanceConsumesRequest := by
  intro i s t h
  cases micro : IsMicro i with
  | true =>
    show t.host = s.host
    rcases isMicro_cases micro with ⟨a7, r, rfl⟩ | ⟨v, rfl⟩ | ⟨k, rfl⟩ | rfl | rfl
    · obtain ⟨-, -, ht⟩ := State.emittingKnownIdle_next.1 h
      cases ht; rfl
    · obtain ⟨-, -, ht⟩ := State.emittingKnownIdle_next.1 h
      cases ht; rfl
    · rw [exec_instr] at h
      obtain ⟨-, -, ht⟩ := State.emittingKnownIdle_next.1 h
      cases ht; rfl
    · obtain ⟨-, ht⟩ := State.emitting_next.1 h
      cases ht; exact s.sample_host
    · obtain ⟨-, -, ht⟩ := State.emittingKnownIdle_next.1 h
      split at ht <;> cases ht
      unfold State.fetchByte State.endPhase
      split_ifs <;> rfl
  | false =>
    show t.host = s.host.tail
    cases i with
    | claim d c =>
      obtain ⟨-, ht⟩ := exec_claim_next.1 h
      split at ht <;> subst ht <;> simp
    | send b a d =>
      obtain ⟨-, -, -, ht⟩ := exec_send_next.1 h
      split at ht <;> subst ht <;> rfl
    | receive b a n =>
      obtain ⟨-, -, -, ht⟩ := exec_receive_next.1 h
      split at ht <;> subst ht <;> rfl
    | _ => cases micro

/-- Past the two checks before it, the length check refuses what no header can express (93 U16). -/
theorem State.admitting_admitted {b : BusIndex} (st : s.st = .idle) (claimed : s.claimed b = true)
    (o : Host.Outcome State Fault Refusal) : s.admitting b o = o := by
  rw [State.admitting, if_pos st, if_pos claimed]

/-- Settles O22: what decodes is well formed, and this is not. -/
theorem overlongSendRefused : Obligations.OverlongSendRefused := by
  intro s b a d st claimed long
  refine ⟨(State.admitting_admitted st claimed _).trans (if_neg long.not_ge), fun c hd => ?_⟩
  exact long.not_ge (of_decide_eq_true (encodeDecodeRoundTrip _ _ _ hd).1)

/-- Settles O58: what decodes is well formed, and this is not. -/
theorem overlongReceiveRefused : Obligations.OverlongReceiveRefused := by
  intro s b a n st claimed long
  refine ⟨(State.admitting_admitted st claimed _).trans (if_neg long.not_ge), fun c hd => ?_⟩
  exact long.not_ge (of_decide_eq_true (encodeDecodeRoundTrip _ _ _ hd).1)

end Sys2Proof.Machine
end

section
/-! PROOFS. Reset and fetch (70 R190 to R192; 10 R20, R34), the result word (30 R80), and that a placed operation is
the one the next step completes (log 13). -/

namespace Sys2Proof.Machine

open Safety

variable {s t : State}

/-! ### Reset and fetch -/

/-- The reset event leaves every port, but for the mark of a transaction cut short (log 8). -/
theorem State.applyReset_port_kept {b : BusIndex} (h : b ≠ s.bus ∨ s.st = .idle) : s.applyReset.port b = s.port b := by
  by_cases st : s.st = .idle
  · exact State.port_congr (if_pos st) b
  · exact State.port_of_setPort_other _ (if_neg st) (h.resolve_right st)

theorem State.applyReset_port_cut (st : s.st ≠ .idle) :
    s.applyReset.port s.bus = { s.port s.bus with unsettled := true } :=
  State.port_of_setPort_same _ (if_neg st)

/-- Settles O1. -/
theorem resetEventGivesResetState : Obligations.ResetEventGivesResetState :=
  fun _ hr => ⟨_, step_reset hr, rfl, rfl, rfl, rfl, rfl, rfl, rfl, rfl, rfl, rfl, rfl, rfl, rfl, rfl, rfl, rfl,
    fun _ => rfl, fun _ => State.applyReset_port_kept, State.applyReset_port_cut⟩

/-- Settles O2. -/
theorem resetValues : Obligations.ResetValues :=
  ⟨fun _ => ⟨rfl, rfl, rfl, rfl, rfl, rfl, rfl, rfl, rfl, rfl, rfl, rfl, rfl⟩, ⟨_, rfl⟩, rfl, rfl, rfl⟩

theorem State.fetch_idle (st : s.st = .idle) : s.fetch = .next (s.host.head?.map Code.request) := by
  simp [State.fetch, st]

theorem State.fetch_named {i : Instr} (st : s.st ≠ .idle) (named : s.namedOp = .next i) :
    s.fetch = .next (some (encode s.cfg.widths i)) := by
  unfold State.fetch
  split
  · next idle => exact absurd idle st
  · rw [named]

/-- Settles O3. -/
theorem fetchedOperationRuns : Obligations.FetchedOperationRuns := by
  intro s hr
  refine ⟨fun c i fetched decoded => ?_, State.fetch_idle, fun st i named =>
    ⟨State.fetch_named st named, decode_encode_micro _ (State.namedOp_isMicro named), step_named hr st named⟩⟩
  simp [step, hr, fetched, decoded]

/-- Settles O4. -/
theorem idleWithoutRequestHolds : Obligations.IdleWithoutRequestHolds :=
  fun _ hr st empty => step_quiet hr st empty

/-! ### The result word -/

theorem formatS_toNat (c : Status) (v : BitVec 8) : (formatS c v).toNat = c.code.toNat * 2 ^ 8 + v.toNat := by
  rw [formatS, BitVec.toNat_append, ← Nat.shiftLeft_add_eq_or_of_lt v.isLt, Nat.shiftLeft_eq, BitVec.toNat_append]
  simp

/-- Settles O13: the fields of format S, and of the host's number on both sides of `LEN_W = 8`. -/
theorem resultWordLayout : Obligations.ResultWordLayout := by
  refine ⟨fun c v => ⟨?zeros, ?code, ?value⟩, fun s narrow fits => ?_, fun s wide fits => ?_, rfl, rfl, rfl, rfl⟩
  case zeros =>
    exact (extract_high (0#6 ++ c.code) v 2 6).trans ((extract_high 0#6 c.code 0 6).trans (extract_all _))
  case code =>
    exact (extract_high (0#6 ++ c.code) v 0 2).trans ((extract_low 0#6 c.code 0 2 (by omega)).trans (extract_all _))
  case value =>
    exact (extract_low (0#6 ++ c.code) v 0 8 (by omega)).trans (extract_all _)
  · rw [formatS_toNat, State.resultWord, max_eq_left narrow, BitVec.toNat_ofNat, Nat.mod_eq_of_lt fits]
  · have small := (Widths.le_rxMax_iff s.cfg.widths _).1 fits
    rw [State.resultWord, max_eq_right wide, Nat.add_comm, Nat.add_mul_div_right _ _ (Nat.two_pow_pos _),
      Nat.div_eq_of_lt small, Nat.zero_add, Nat.add_mul_mod_self_right, Nat.mod_eq_of_lt small]
    exact ⟨rfl, rfl⟩

/-! ### Placing an operation -/

/-- The handle of a placed request is claimed (R193). -/
theorem State.withClaimed_claimed (s : State) (b : BusIndex) : (s.withClaimed b).claimed b = true := by
  have lt := b.isLt
  rw [State.claimed_iff, State.withClaimed]
  split
  · next claimed => exact (s.claimed_iff b).1 claimed
  · rw [BitVec.toNat_add, BitVec.toNat_setWidth, show (1 : BitVec 8).toNat = 1 from rfl]; omega

/-- A placed request waits in `IDLE`, at the head of the host's list. -/
theorem State.placeRequest_ready (s : State) (r : Request) :
    (s.placeRequest r).st = .idle ∧ (s.placeRequest r).resetLine = false ∧
      (s.placeRequest r).host = r :: s.host ∧ (s.placeRequest r).cfg = s.cfg := by
  unfold State.placeRequest
  split <;> exact ⟨rfl, rfl, rfl, rfl⟩

/-- A host operation placed as its request answers a next state. -/
theorem exec_placeRequest_next {r : Request} {i : Instr} (decoded : decode s.cfg.widths (.request r) = .ok i) :
    ∃ t, exec i (s.placeRequest r) = .next t := by
  obtain ⟨st, -, -, cfg⟩ := s.placeRequest_ready r
  rcases decode_request_cases decoded with ⟨d, c, rfl⟩ | ⟨b, a, d, rfl⟩ | ⟨b, a, n, rfl⟩
  · exact ⟨_, exec_claim_next.2 ⟨st, rfl⟩⟩
  · have claimed : (s.placeRequest r).claimed b = true := by
      simp only [State.placeRequest, decoded]; exact State.withClaimed_claimed _ b
    have fits : d.length ≤ (s.placeRequest r).cfg.rxMax := by rw [cfg]; exact decode_length_fits (.inl ⟨decoded, rfl⟩)
    exact ⟨_, exec_send_next.2 ⟨st, claimed, fits, rfl⟩⟩
  · have claimed : (s.placeRequest r).claimed b = true := by
      simp only [State.placeRequest, decoded]; exact State.withClaimed_claimed _ b
    have fits : n ≤ (s.placeRequest r).cfg.rxMax := by rw [cfg]; exact decode_length_fits (d := []) (.inr decoded)
    exact ⟨_, exec_receive_next.2 ⟨st, claimed, fits, rfl⟩⟩

theorem State.placePhase_knownIdle (s : State) (st : SeqState) (op : Op) (a7 : Addr7) (len idx : Nat)
    (data : List Byte) : (s.placePhase st op a7 len idx data).knownIdle s.bus = true :=
  State.knownIdle_of_setPort (s := s.withClaimed s.bus)
    (p := { (s.withClaimed s.bus).port s.bus with unsettled := false }) rfl rfl (s.withClaimed_claimed s.bus) rfl

/-- A placed command is named, on a bus known idle (R104, R123): the shortest transaction with its phase. -/
theorem State.placeCommand_named (s : State) (k : CmdKind) (widths : s.cfg.widths = .standard) :
    (s.placeCommand k).namedOp = .next k.instr ∧ (s.placeCommand k).st ≠ .idle ∧
      (s.placeCommand k).resetLine = false ∧ (s.placeCommand k).knownIdle (s.placeCommand k).bus = true := by
  have receive {n i : Nat} (kind : recvKind .standard n i = some k) :
      (s.placePhase .rCmd .receive s.a7 n i []).namedOp = .next k.instr :=
    State.namedOp_rCmd rfl (by show recvKind s.cfg.widths n i = some k; rw [widths]; exact kind)
  cases k with
  | singleReceive | burstReceiveStart | burstReceiveContinue | burstReceiveFinish =>
    exact ⟨receive rfl, by simp [State.placeCommand, State.placePhase], rfl, s.placePhase_knownIdle ..⟩
  | _ =>
    exact ⟨State.namedOp_sCmd rfl rfl, by simp [State.placeCommand, State.placePhase], rfl, s.placePhase_knownIdle ..⟩

/-- A placed micro-operation is named in a running transaction, and completes. -/
theorem exec_placeMicro_next {i : Instr} (widths : s.cfg.widths = .standard) (micro : IsMicro i = true) :
    (s.placeMicro i).namedOp = .next i ∧ (s.placeMicro i).st ≠ .idle ∧ (s.placeMicro i).resetLine = false ∧
      ∃ t, exec i (s.placeMicro i) = .next t := by
  rcases isMicro_cases micro with ⟨a7, r, rfl⟩ | ⟨v, rfl⟩ | ⟨k, rfl⟩ | rfl | rfl
  · cases r with
    | false =>
      exact ⟨State.namedOp_sAddr rfl, by simp [State.placeMicro, State.placePhase], rfl, _,
        exec_addrSet_programs (s := s.placeMicro (.addrSet a7 false)) rfl (s.placePhase_knownIdle ..)⟩
    | true =>
      exact ⟨State.namedOp_rAddr rfl, by simp [State.placeMicro, State.placePhase], rfl, _,
        exec_addrSet_programs (s := s.placeMicro (.addrSet a7 true)) rfl (s.placePhase_knownIdle ..)⟩
  · have staged : (s.placeMicro (.put v)).bufRead 0 = .next v := by
      refine State.bufRead_next.2 ⟨by omega, ?_⟩
      exact State.stage_read_staged (d := [v]) _ (by simp)
    have named : (s.placeMicro (.put v)).namedOp = .next (.put v) := State.namedOp_sPut rfl staged
    exact ⟨named, by simp [State.placeMicro, State.placePhase], rfl, _,
      (State.emittingKnownIdle_named named).trans (if_pos (s.placePhase_knownIdle ..))⟩
  · have placed : s.placeMicro k.instr = s.placeCommand k := by cases k <;> rfl
    obtain ⟨named, st, line, idle⟩ := s.placeCommand_named k widths
    rw [placed]
    exact ⟨named, st, line, _, exec_command_issues named idle⟩
  · exact ⟨State.namedOp_wait (.inl rfl), by simp [State.placeMicro, State.placePhase], rfl, _,
      exec_poll_samples (.inl rfl)⟩
  · exact ⟨State.namedOp_rGet rfl, by simp [State.placeMicro, State.placePhase], rfl, _,
      exec_get_fetches (s := s.placeMicro .get) rfl (s.placePhase_knownIdle ..) (Nat.succ_pos 0)⟩

/-- Settles O5: a request is placed at the head of the host's list, a micro-operation in the shortest transaction that
names it. -/
theorem placedOperationRuns : Obligations.PlacedOperationRuns := by
  intro s nbits w i widths table
  unfold decodeTableWord at table
  split at table
  · next c code =>
    have decoded : decode s.cfg.widths c = .ok i := by
      rw [widths]
      cases h : decode .standard c <;> rw [h] at table <;> cases table
      rfl
    have placed : s.withFetchWord nbits w = s.place c := by rw [State.withFetchWord, code]
    rw [placed]
    cases c with
    | request r =>
      obtain ⟨st, line, host, cfg⟩ := s.placeRequest_ready r
      obtain ⟨t, ht⟩ := exec_placeRequest_next decoded
      exact ⟨t, (step_request_ok line st host (by rw [cfg]; exact decoded)).trans ht, ht⟩
    | micro word =>
      have place : s.place (.micro word) = s.placeMicro i := by
        rw [State.place, show decodeMicro word = .ok i from decoded]
      obtain ⟨named, st, line, t, ht⟩ := exec_placeMicro_next widths (decodeMicro_ok .standard decoded).1
      rw [place]
      exact ⟨t, (step_named line st named).trans ht, ht⟩
  · cases table

end Sys2Proof.Machine
end

section
/-! PROOFS. The legs of a transaction: a piece of a run inside one transaction, with the events it appends (one a
step) and what it leaves as it was. Legs compose; each micro-operation and each wait is one. -/

namespace Sys2Proof.Machine

open Safety

variable {s t u : State}

/-- From `s` the machine comes to `t` in one step for each of `events`, ending `n` byte phases, inside a transaction. -/
structure Leg (s t : State) (n : Nat) (events : List Event) : Prop where
  run : run events.length s = .next t
  trace : t.trace = s.trace ++ events
  idx : t.idx = s.idx + n
  cfg : t.cfg = s.cfg
  bus : t.bus = s.bus
  len : t.len = s.len
  buf : t.buf = s.buf
  claims : t.claims = s.claims
  host : t.host = s.host
  resetLine : t.resetLine = s.resetLine
  ports : ∀ c, c ≠ s.bus → t.port c = s.port c

theorem Leg.refl (s : State) : Leg s s 0 [] :=
  ⟨rfl, (List.append_nil _).symm, rfl, rfl, rfl, rfl, rfl, rfl, rfl, rfl, fun _ _ => rfl⟩

theorem Leg.trans {m n : Nat} {es fs : List Event} (h : Leg s t m es) (g : Leg t u n fs) :
    Leg s u (m + n) (es ++ fs) where
  run := by rw [List.length_append, run_add _ h.run, g.run]
  trace := by rw [g.trace, h.trace, List.append_assoc]
  idx := by rw [g.idx, h.idx, Nat.add_assoc]
  cfg := g.cfg.trans h.cfg
  bus := g.bus.trans h.bus
  len := g.len.trans h.len
  buf := g.buf.trans h.buf
  claims := g.claims.trans h.claims
  host := g.host.trans h.host
  resetLine := g.resetLine.trans h.resetLine
  ports := fun c hc => (g.ports c (h.bus ▸ hc)).trans (h.ports c hc)

/-- One step of a transaction is a leg. -/
theorem Leg.of_step {n : Nat} {e : Event} (line : s.resetLine = false) (running : s.st ≠ .idle) (h : step s = .next t)
    (trace : t.trace = s.trace ++ [e]) (idx : t.idx = s.idx + n) : Leg s t n [e] := by
  have hf := step_form line h
  obtain ⟨-, bus, -, len, buf⟩ := hf.keeps_operandLatches (.inl running)
  obtain ⟨claims, -, host⟩ := hf.keeps_registry running
  exact ⟨run_succ 0 h, trace, idx, hf.keeps_cfg, bus, len, buf, claims, host, hf.keeps_resetLine,
    fun c => hf.keeps_other_ports running⟩

/-- Where a micro-operation that needs the bus can run: outside reset, on a bus known idle. -/
structure Ready (st : SeqState) (s : State) : Prop where
  line : s.resetLine = false
  st : s.st = st
  idle : s.knownIdle s.bus = true

theorem Ready.running {st : SeqState} (h : Ready st s) (hst : st ≠ .idle) : s.st ≠ .idle := h.st ▸ hst

/-! ### Waits -/

theorem State.pollAnswer_cons {a : Bool} {later : List Bool} (h : s.oracle.polls = a :: later) : s.pollAnswer = a := by
  rw [State.pollAnswer, h]

theorem State.getAnswer_cons {v : Byte} {more : List Byte} (h : s.oracle.gets = v :: more) : s.getAnswer = v := by
  rw [State.getAnswer, h]

/-- The state after `k` counted busy answers, with `later` the answers still to come (R107, R125). -/
def State.afterBusyAnswers (s : State) (k : Nat) (later : List Bool) : State :=
  { s with
    pcnt := s.pcnt + k
    oracle := { s.oracle with polls := later, draws := s.oracle.draws + k }
    trace := s.trace ++ List.replicate k (.poll s.bus true) }

/-- A wait that stays below the limit goes on for `k` busy answers (R154). -/
theorem run_busyAnswers {k : Nat} {later : List Bool} (line : s.resetLine = false)
    (wait : s.st = .sPoll ∨ s.st = .rPoll)
    (polls : s.oracle.polls = List.replicate k true ++ later)
    (below : ∀ n, s.cfg.pollLimit.samples = some n → s.pcnt + k < n) :
    run k s = .next (s.afterBusyAnswers k later) := by
  induction k generalizing s with
  | zero =>
    obtain rfl : s.oracle.polls = later := polls
    simp [run, State.afterBusyAnswers]
  | succ k ih =>
    have answer : s.pollAnswer = true := State.pollAnswer_cons polls
    have limit : s.atPollLimit = false := by
      rw [← Bool.not_eq_true, State.atPollLimit_iff]
      intro hit
      have := below _ hit
      omega
    have first : step s = .next (s.afterBusyAnswers 1 s.oracle.polls.tail) :=
      (step_poll line wait).trans (congrArg _ (State.sample_counted answer limit))
    have rest := ih (s := s.afterBusyAnswers 1 s.oracle.polls.tail) line wait (congrArg List.tail polls)
      fun n samples => by have := below n samples; show s.pcnt + 1 + k < n; omega
    rw [run_succ k first, rest]
    simp [State.afterBusyAnswers, List.replicate_succ, Nat.add_assoc, Nat.add_comm 1 k]

theorem Leg.busyAnswers {k : Nat} {later : List Bool} (line : s.resetLine = false)
    (wait : s.st = .sPoll ∨ s.st = .rPoll)
    (polls : s.oracle.polls = List.replicate k true ++ later)
    (below : ∀ n, s.cfg.pollLimit.samples = some n → s.pcnt + k < n) :
    Leg s (s.afterBusyAnswers k later) 0 (List.replicate k (.poll s.bus true)) :=
  ⟨by rw [List.length_replicate, run_busyAnswers line wait polls below], rfl, rfl, rfl, rfl, rfl, rfl, rfl, rfl, rfl,
    fun _ _ => rfl⟩

/-- Settles O56: with `INF` nothing bounds the wait. -/
theorem endlessWaitIsKept : Obligations.EndlessWaitIsKept := by
  intro s k later line wait inf polls
  have unbounded (n : Nat) : s.cfg.pollLimit.samples = some n → s.pcnt + k < n := by simp [inf, PollLimit.samples]
  exact ⟨_, run_busyAnswers line wait polls unbounded, rfl, rfl, rfl, rfl, rfl⟩

/-- The state in which the wait of command `kind` has seen `k` busy answers. -/
def State.waiting (s : State) (kind : CmdKind) (k : Nat) (later : List Bool) : State :=
  (s.issue kind).afterBusyAnswers k later

/-- A command and the busy answers of its wait (R106, R124, R154). -/
theorem Leg.waiting {kind : CmdKind} {k : Nat} {later : List Bool} (line : s.resetLine = false) (running : s.st ≠ .idle)
    (command : step s = .next (s.issue kind)) (wait : waitAfter kind = .sPoll ∨ waitAfter kind = .rPoll)
    (polls : s.oracle.polls = List.replicate k true ++ later)
    (below : ∀ n, s.cfg.pollLimit.samples = some n → k < n) :
    Leg s (s.waiting kind k later) 0 (.cmd s.bus kind :: List.replicate k (.poll s.bus true)) :=
  (Leg.of_step line running command rfl rfl).trans
    (Leg.busyAnswers (s := s.issue kind) line wait polls fun n samples => (Nat.zero_add k).symm ▸ below n samples)

/-- While the wait runs, its bus is not known idle (R61). -/
theorem State.waiting_unsettled (s : State) (kind : CmdKind) (k : Nat) (later : List Bool) :
    ((s.waiting kind k later).port s.bus).unsettled = true :=
  congrArg Port.unsettled
    (State.port_of_setPort_same (s := s) (p := { s.port s.bus with command := some kind, unsettled := true }) rfl)

theorem waitEvents_eq (b : BusIndex) (k : Nat) :
    waitEvents b k = List.replicate k (.poll b true) ++ [.poll b false] := by
  simp [waitEvents, waitAnswers]

theorem polls_wait {k : Nat} {later : List Bool} (polls : s.oracle.polls = waitAnswers k ++ later) :
    s.oracle.polls = List.replicate k true ++ false :: later := by
  rw [polls, waitAnswers, List.append_assoc]; rfl

/-- What the end of a transaction shows (R165, R166). -/
structure Completed (status : Status) (remaining : Nat) (t : State) : Prop where
  st : t.st = .idle
  done : t.done = true
  status : t.status = status
  remaining : t.remaining = remaining

/-- The wait that sees its limit ends the transaction, and leaves its bus not known idle (R163, R167, R201). -/
theorem Leg.timeout {kind : CmdKind} {m : Nat} {later : List Bool} (line : s.resetLine = false) (running : s.st ≠ .idle)
    (command : step s = .next (s.issue kind)) (wait : waitAfter kind = .sPoll ∨ waitAfter kind = .rPoll)
    (polls : s.oracle.polls = List.replicate (m + 1) true ++ later) (limit : s.cfg.pollLimit.samples = some (m + 1)) :
    ∃ t, Leg s t 0 (.cmd s.bus kind :: List.replicate (m + 1) (.poll s.bus true)) ∧
      Completed .busTimeout (s.len - s.idx) t ∧ t.knownIdle s.bus = false ∧ t.rx = s.rx ∧ t.oracle.polls = later ∧
      t.oracle.gets = s.oracle.gets := by
  rw [List.replicate_succ', List.append_assoc] at polls
  have w := Leg.waiting (later := true :: later) line running command wait polls fun n samples => by
    rw [limit] at samples; cases samples; omega
  have hit : (s.waiting kind m (true :: later)).atPollLimit = true := by
    rw [State.atPollLimit_iff]
    show s.cfg.pollLimit.samples = some (0 + m + 1)
    rw [limit, Nat.zero_add]
  have last : step (s.waiting kind m (true :: later)) = .next _ :=
    (step_poll (s := s.waiting kind m (true :: later)) line wait).trans (congrArg _ (State.sample_timeout rfl hit))
  have running' : (s.waiting kind m (true :: later)).st ≠ .idle := by
    rcases wait with h | h <;> simp [State.waiting, State.afterBusyAnswers, State.issue, h]
  have leg := w.trans (Leg.of_step (n := 0) line running' last rfl rfl)
  rw [List.replicate_succ']
  refine ⟨_, leg, ⟨rfl, rfl, rfl, rfl⟩, ?_, rfl, rfl, rfl⟩
  have unsettled := s.waiting_unsettled kind m (true :: later)
  rw [← Bool.not_eq_true, State.knownIdle_iff]
  rintro ⟨-, settled⟩
  exact Bool.noConfusion (unsettled.symm.trans settled)

end Sys2Proof.Machine
end

section
/-! PROOFS. Whole sends (41 R110): the acceptance and `ADDR_SET`, the byte phases by induction, and the phase that
ends the transaction, with its last byte sent or at the limit of its wait. -/

namespace Sys2Proof.Machine

open Safety

variable {s t : State}

/-- The number of steps of some phases is the number of their events. -/
theorem sendPhases_length (b : BusIndex) (n i : Nat) (phases : List (Byte × Nat)) :
    (sendPhases b n i phases).length = phaseSteps phases := by
  induction phases generalizing i with
  | nil => rfl
  | cons p rest ih =>
    simp only [sendPhases, phaseSteps, waitEvents_eq, List.length_cons, List.length_append, List.length_replicate,
      ih, List.length_nil]
    omega

theorem sendPhases_append (b : BusIndex) (n i : Nat) (ps qs : List (Byte × Nat)) :
    sendPhases b n i (ps ++ qs) = sendPhases b n i ps ++ sendPhases b n (i + ps.length) qs := by
  induction ps generalizing i with
  | nil => rfl
  | cons p rest ih =>
    simp only [List.cons_append, sendPhases, ih, List.length_cons, List.append_assoc, Nat.add_assoc, Nat.add_comm 1]

theorem sendPhases_cons (b : BusIndex) (n i : Nat) (p : Byte × Nat) (rest : List (Byte × Nat)) :
    sendPhases b n i (p :: rest) = sendPhases b n i [p] ++ sendPhases b n (i + 1) rest :=
  sendPhases_append b n i [p] rest

/-! ### The steps of a phase -/

/-- `ADDR_SET` at the start of a send (R103). -/
theorem Leg.addressSend (h : Ready .sAddr s) :
    ∃ t, Leg s t 0 [.addrSet s.bus s.a7 false] ∧ Ready .sPut t ∧ t.rx = s.rx ∧ t.oracle = s.oracle := by
  obtain ⟨claimed, settled⟩ := (s.knownIdle_iff _).1 h.idle
  have next := (step_sAddr h.line h.st).trans (if_pos h.idle)
  exact ⟨_, Leg.of_step h.line (h.running (by decide)) next rfl rfl,
    ⟨h.line, rfl, State.knownIdle_of_setPort (s := s) rfl rfl claimed settled⟩, rfl, rfl⟩

/-- `PUT` of the staged byte (R105). -/
theorem Leg.put {v : Byte} (h : Ready .sPut s) (byte : s.bufRead s.idx = .next v) :
    ∃ t, Leg s t 0 [.put s.bus v] ∧ Ready .sCmd t ∧ t.rx = s.rx ∧ t.oracle = s.oracle := by
  obtain ⟨claimed, settled⟩ := (s.knownIdle_iff _).1 h.idle
  have next := (step_sPut h.line h.st byte).trans (if_pos h.idle)
  exact ⟨_, Leg.of_step h.line (h.running (by decide)) next rfl rfl,
    ⟨h.line, rfl, State.knownIdle_of_setPort (s := s) rfl rfl claimed settled⟩, rfl, rfl⟩

/-- The kind of the command in a phase of a send, as the expansion writes it. -/
abbrev sendExpansion (n i : Nat) : CmdKind := expansionKind .singleSend .burstStart .burstContinue .burstFinish n i

/-- The command of a send's phase is issued (R106), and its wait is `S_POLL`. -/
theorem step_sCmd_issues (h : Ready .sCmd s) (lt : s.idx < s.len) (le : s.len ≤ 30) :
    step s = .next (s.issue (sendExpansion s.len s.idx)) ∧ waitAfter (sendExpansion s.len s.idx) = .sPoll := by
  have kind := sendKind_expansion lt le
  exact ⟨(step_sCmd h.line h.st kind).trans (if_pos h.idle), sendKind_waitState kind⟩

/-- The command of a send's phase and its wait, up to the idle answer, whose end is `IDX + 1` (R106, R107). -/
theorem Leg.sendCommand {k : Nat} {later : List Bool} (h : Ready .sCmd s) (lt : s.idx < s.len) (le : s.len ≤ 30)
    (polls : s.oracle.polls = waitAnswers k ++ later) (below : ∀ n, s.cfg.pollLimit.samples = some n → k < n) :
    ∃ t, Leg s t 1 (.cmd s.bus (sendExpansion s.len s.idx) :: waitEvents s.bus k) ∧ t.knownIdle t.bus = true ∧
      (s.idx + 1 ≠ s.len → t.st = .sPut) ∧ (s.idx + 1 = s.len → Completed .ok 0 t) ∧ t.rx = s.rx ∧
      t.oracle.polls = later := by
  obtain ⟨claimed, -⟩ := (s.knownIdle_iff _).1 h.idle
  obtain ⟨issued, wait⟩ := step_sCmd_issues h lt le
  have leg := Leg.waiting h.line (h.running (by decide)) issued (.inl wait) (polls_wait polls) below
  set w := s.waiting (sendExpansion s.len s.idx) k (false :: later)
  have wst : w.st = .sPoll := wait
  have sampled : step w = .next w.sample := step_poll h.line (.inl wst)
  rw [waitEvents_eq, ← List.cons_append]
  by_cases last : s.idx + 1 = s.len
  · rw [State.sample_last_phase rfl wst last] at sampled
    exact ⟨_, leg.trans (Leg.of_step h.line (by simp [wst]) sampled rfl rfl),
      State.knownIdle_of_setPort (s := w) (p := { w.port w.bus with unsettled := false }) rfl rfl claimed rfl,
      fun more => absurd last more, fun _ => ⟨rfl, rfl, rfl, rfl⟩, rfl, rfl⟩
  · rw [State.sample_next_phase rfl wst last] at sampled
    exact ⟨_, leg.trans (Leg.of_step h.line (by simp [wst]) sampled rfl rfl),
      State.knownIdle_of_setPort (s := w) (p := { w.port w.bus with unsettled := false }) rfl rfl claimed rfl,
      fun _ => rfl, fun last' => absurd last' last, rfl, rfl⟩

/-- One byte phase of a send: `PUT`, the command, the wait. -/
theorem Leg.sendPhase {v : Byte} {k : Nat} {later : List Bool} (h : Ready .sPut s) (lt : s.idx < s.len)
    (le : s.len ≤ 30) (byte : s.buf.read s.idx = some v) (polls : s.oracle.polls = waitAnswers k ++ later)
    (below : ∀ n, s.cfg.pollLimit.samples = some n → k < n) :
    ∃ t, Leg s t 1 (sendPhases s.bus s.len s.idx [(v, k)]) ∧ t.knownIdle t.bus = true ∧
      (s.idx + 1 ≠ s.len → t.st = .sPut) ∧ (s.idx + 1 = s.len → Completed .ok 0 t) ∧ t.rx = s.rx ∧
      t.oracle.polls = later := by
  obtain ⟨u, put, ready, rx, oracle⟩ := Leg.put h (State.bufRead_next.2 ⟨by omega, byte⟩)
  have idx : u.idx = s.idx := put.idx
  obtain ⟨t, command, idle, more, last, rx', polls'⟩ := Leg.sendCommand (k := k) (later := later) ready
    (by rw [idx, put.len]; exact lt) (put.len ▸ le) (oracle ▸ polls) (put.cfg ▸ below)
  rw [put.bus, put.len, idx] at command
  rw [idx, put.len] at more last
  have leg := put.trans command
  rw [show sendPhases s.bus s.len s.idx [(v, k)] =
    [.put s.bus v] ++ (.cmd s.bus (sendExpansion s.len s.idx) :: waitEvents s.bus k) by simp [sendPhases]]
  exact ⟨t, leg, idle, more, last, rx'.trans rx, polls'⟩

/-- The byte phases of a send up to one that is not the last, by induction on them. -/
theorem Leg.sendEachPhase (phases : List (Byte × Nat)) {later : List Bool} (h : Ready .sPut s)
    (lt : s.idx + phases.length < s.len) (le : s.len ≤ 30)
    (bytes : ∀ i, i < phases.length → s.buf.read (s.idx + i) = (phases.map Prod.fst)[i]?)
    (polls : s.oracle.polls = phases.flatMap (fun p => waitAnswers p.2) ++ later)
    (below : ∀ p ∈ phases, ∀ n, s.cfg.pollLimit.samples = some n → p.2 < n) :
    ∃ t, Leg s t phases.length (sendPhases s.bus s.len s.idx phases) ∧ Ready .sPut t ∧ t.rx = s.rx ∧
      t.oracle.polls = later := by
  induction phases generalizing s with
  | nil => exact ⟨s, .refl s, h, rfl, polls⟩
  | cons p rest ih =>
    obtain ⟨v, k⟩ := p
    rw [List.length_cons] at lt
    rw [List.flatMap_cons, List.append_assoc] at polls
    obtain ⟨u, leg, idle, more, -, rx, polls'⟩ := Leg.sendPhase (v := v) (k := k) h (by omega) le
      (bytes 0 (Nat.succ_pos _)) polls (below _ List.mem_cons_self)
    have ready : Ready .sPut u := ⟨leg.resetLine.trans h.line, more (by omega), idle⟩
    obtain ⟨t, legs, ready', rx', later'⟩ := ih ready (by rw [leg.idx, leg.len]; omega) (leg.len ▸ le)
      (fun i hi => by
        rw [leg.buf, leg.idx, Nat.add_assoc, Nat.add_comm 1]
        exact bytes (i + 1) (Nat.succ_lt_succ hi))
      polls' (fun p hp => leg.cfg ▸ below p (List.mem_cons_of_mem _ hp))
    rw [leg.bus, leg.len, leg.idx] at legs
    have all := leg.trans legs
    rw [← sendPhases_cons, Nat.add_comm 1] at all
    exact ⟨t, all, ready', rx'.trans rx, later'⟩

/-! ### The acceptance -/

/-- The state a valid `SEND` leads to (R101, R102). -/
def State.sendAccepted (s : State) (b : BusIndex) (a : BitVec 8) (d : List Byte) : State :=
  (s.consumeRequest.stage d).latch .send b a d.length .sAddr

/-- A presented `SEND` of 1 to 30 bytes is accepted in one step (R71, R101). -/
theorem step_accepts_send {b : BusIndex} {a : BitVec 8} {d : List Byte} {others : List Request}
    (line : s.resetLine = false) (st : s.st = .idle) (claimed : s.claimed b = true)
    (valid : 1 ≤ d.length ∧ d.length ≤ 30) (fits : d.length ≤ s.cfg.rxMax)
    (host : s.host = .transfer (headerWord s.cfg.widths false b a d.length) d :: others) :
    step s = .next (s.sendAccepted b a d) := by
  have decoded : decode s.cfg.widths (.request (.transfer (headerWord s.cfg.widths false b a d.length) d)) =
      .ok (.send b a d) := decodeEncodeRoundTrip s.cfg.widths (.send b a d) (decide_eq_true fits)
  exact (step_request_ok line st host decoded).trans (exec_send_accepts st claimed fits valid)

/-- From the acceptance of a send to the start of a phase: `ADDR_SET` and the phases before, all ended idle. -/
theorem Leg.sendUpTo (phases : List (Byte × Nat)) {b : BusIndex} {a : BitVec 8} {d : List Byte} {later : List Bool}
    (line : s.resetLine = false) (idle : s.knownIdle b = true) (lt : phases.length < d.length) (le : d.length ≤ 30)
    (bytes : ∀ i, i < phases.length → d[i]? = (phases.map Prod.fst)[i]?)
    (polls : s.oracle.polls = phases.flatMap (fun p => waitAnswers p.2) ++ later)
    (below : ∀ p ∈ phases, ∀ n, s.cfg.pollLimit.samples = some n → p.2 < n) :
    ∃ t, Leg (s.sendAccepted b a d) t phases.length
        (.addrSet b (targetAddress a) false :: sendPhases b d.length 0 phases) ∧
      Ready .sPut t ∧ t.idx = phases.length ∧ t.buf.read phases.length = d[phases.length]? ∧ t.rx = s.rx ∧
      t.oracle.polls = later := by
  have staged {i : Nat} (hi : i < d.length) : (s.sendAccepted b a d).buf.read i = d[i]? :=
    s.consumeRequest.stage_read_staged hi
  obtain ⟨u, address, ready, rx, oracle⟩ := Leg.addressSend (s := s.sendAccepted b a d) ⟨line, rfl, idle⟩
  have idx : u.idx = 0 := address.idx
  have len : u.len = d.length := address.len
  obtain ⟨t, legs, ready', rx', polls'⟩ := Leg.sendEachPhase phases ready (later := later)
    (by rw [idx, len]; omega) (len ▸ le)
    (fun i hi => by
      rw [address.buf, idx, Nat.zero_add, staged (hi.trans lt)]
      exact bytes i hi)
    (by rw [oracle]; exact polls) (address.cfg ▸ below)
  rw [address.bus, len, idx] at legs
  have leg := address.trans legs
  rw [Nat.zero_add] at leg
  refine ⟨t, leg, ready', leg.idx.trans (Nat.zero_add _), ?_, rx'.trans rx, polls'⟩
  rw [leg.buf, staged lt]

/-- The run of an accepted request: the acceptance, then its leg. -/
theorem run_accepted {u : State} {n m : Nat} {events : List Event} (accept : step s = .next u)
    (leg : Leg u t n events) (steps : m = events.length + 1) : run m s = .next t := by
  rw [steps, run_succ _ accept, leg.run]

/-- The word the host reads after a success (R80, R165). -/
theorem Completed.resultWord (h : Completed .ok 0 t) : t.resultWord = 0 := by
  simp [State.resultWord, h.status, h.remaining, Status.code]

/-- Settles O51: the acceptance, `ADDR_SET`, the phases before the last, the last phase. -/
theorem sendHasItsExpansion : Obligations.SendHasItsExpansion := by
  intro s b a phases others later line st idle one le fits host polls below
  obtain ⟨init, ⟨v, k⟩, rfl⟩ : ∃ init last, phases = init ++ [last] :=
    (List.eq_nil_or_concat' phases).resolve_left fun e => by rw [e] at one; cases one
  set d := (init ++ [(v, k)]).map Prod.fst with hd
  have count : (init ++ [(v, k)]).length = d.length := (List.length_map _).symm
  have size : d.length = init.length + 1 := by rw [← count]; simp
  rw [count] at one le fits host ⊢
  have last : d[init.length]? = some v := by simp [hd]
  have accept := step_accepts_send line st ((s.knownIdle_iff b).1 idle).1 ⟨one, le⟩ fits host
  rw [List.flatMap_append, List.append_assoc] at polls
  obtain ⟨u, before, ready, idx, byte, rx, polls'⟩ := Leg.sendUpTo init (a := a) (d := d) line idle (by omega) le
    (fun i hi => by simp [hd, List.getElem?_append_left, hi]) polls
    (fun p hp => below p (List.mem_append_left _ hp))
  have len : u.len = d.length := before.len
  have bus : u.bus = b := before.bus
  obtain ⟨t, phase, settled, -, done, rx', later'⟩ := Leg.sendPhase (v := v) (k := k) (later := later) ready
    (by rw [idx, len]; omega) (len ▸ le) (by rw [idx, byte, last]) (by rw [polls']; simp)
    (before.cfg ▸ below (v, k) (by simp))
  have completed := done (by rw [idx, len, size])
  rw [bus, len, idx] at phase
  have leg := before.trans phase
  have events : (Event.addrSet b (targetAddress a) false :: sendPhases b d.length 0 init) ++
      sendPhases b d.length init.length [(v, k)] =
      .addrSet b (targetAddress a) false :: sendPhases b d.length 0 (init ++ [(v, k)]) := by
    rw [List.cons_append, sendPhases_append, Nat.zero_add]
  rw [events] at leg
  refine ⟨t, run_accepted accept leg ?_, leg.trace, completed.st, completed.done, completed.status,
    completed.remaining, completed.resultWord, ?_, leg.idx.trans ?_, leg.host.trans ?_, later', rx'.trans rx,
    leg.claims, leg.ports⟩
  · rw [List.length_cons, sendPhases_length]; omega
  · rw [leg.bus] at settled; exact settled
  · exact (Nat.zero_add _).trans size.symm
  · show s.host.tail = others
    rw [host]; rfl

/-- Settles O53: the acceptance, `ADDR_SET`, the phases before, then `PUT` and the command whose wait sees its limit. -/
theorem sendTimeoutHasItsPrefix : Obligations.SendTimeoutHasItsPrefix := by
  intro s b a phases v data others later limit line st idle le fits samples host polls below
  obtain ⟨m, rfl⟩ := Nat.exists_eq_succ_of_ne_zero (pollLimit_samples_pos samples).ne'
  set d := phases.map Prod.fst ++ v :: data with hd
  have count : phases.length + 1 + data.length = d.length := by simp [hd]; omega
  rw [count] at le fits host ⊢
  have byte_v : d[phases.length]? = some v := by simp [hd]
  have accept := step_accepts_send line st ((s.knownIdle_iff b).1 idle).1 ⟨by omega, le⟩ fits host
  rw [List.append_assoc] at polls
  have within (p) (hp : p ∈ phases) (n) (hn : s.cfg.pollLimit.samples = some n) : p.2 < n := by
    rw [samples] at hn; cases hn; exact below p hp
  obtain ⟨u, before, ready, idx, byte, -, polls'⟩ := Leg.sendUpTo phases (a := a) (d := d) line idle (by omega) le
    (fun i hi => by simp [hd, List.getElem?_append_left, hi]) polls within
  have len : u.len = d.length := before.len
  obtain ⟨w, put, ready', -, oracle⟩ := Leg.put (v := v) ready
    (State.bufRead_next.2 ⟨by omega, by rw [idx, byte, byte_v]⟩)
  have leg := before.trans put
  have idx' : w.idx = phases.length := put.idx.trans idx
  have len' : w.len = d.length := put.len.trans len
  obtain ⟨issued, wait⟩ := step_sCmd_issues ready' (by omega) (len' ▸ le)
  obtain ⟨t, ending, completed, unknown, -, later', -⟩ := Leg.timeout (m := m) (later := later) ready'.line
    (ready'.running (by decide)) issued (.inl wait) (by rw [oracle, polls']) (by rw [leg.cfg]; exact samples)
  have whole := leg.trans ending
  rw [leg.bus] at unknown
  refine ⟨t, run_accepted accept whole ?_, ?_, completed.st, completed.done, completed.status, ?_,
    (by rw [whole.idx]; exact Nat.zero_add _), unknown, later'⟩
  · simp [sendPhases_length]; omega
  · rw [whole.trace, put.bus, before.bus, len', idx']
    simp [State.sendAccepted]
  · rw [completed.remaining, len', idx']; omega

end Sys2Proof.Machine
end

section
/-! PROOFS. Whole receives (42 R129): the acceptance and `ADDR_SET`, the byte phases by induction, and the phase that
ends the transaction, with its last byte delivered or at the limit of its wait. -/

namespace Sys2Proof.Machine

open Safety

variable {s t : State}

theorem receivePhases_length (b : BusIndex) (n i : Nat) (phases : List (Byte × Nat)) :
    (receivePhases b n i phases).length = phaseSteps phases := by
  induction phases generalizing i with
  | nil => rfl
  | cons p rest ih =>
    simp only [receivePhases, phaseSteps, waitEvents_eq, List.length_cons, List.length_append, List.length_replicate,
      ih, List.length_nil]
    omega

theorem receivePhases_append (b : BusIndex) (n i : Nat) (ps qs : List (Byte × Nat)) :
    receivePhases b n i (ps ++ qs) = receivePhases b n i ps ++ receivePhases b n (i + ps.length) qs := by
  induction ps generalizing i with
  | nil => rfl
  | cons p rest ih =>
    simp only [List.cons_append, receivePhases, ih, List.length_cons, List.append_assoc, Nat.add_assoc, Nat.add_comm 1]

theorem receivePhases_cons (b : BusIndex) (n i : Nat) (p : Byte × Nat) (rest : List (Byte × Nat)) :
    receivePhases b n i (p :: rest) = receivePhases b n i [p] ++ receivePhases b n (i + 1) rest :=
  receivePhases_append b n i [p] rest

theorem Memory.writeFrom_append (m : Memory) (a : Nat) (vs ws : List Byte) :
    m.writeFrom a (vs ++ ws) = (m.writeFrom a vs).writeFrom (a + vs.length) ws := by
  induction vs generalizing m a with
  | nil => rfl
  | cons v vs ih => simp only [List.cons_append, Memory.writeFrom, ih, List.length_cons, Nat.add_assoc, Nat.add_comm 1]

/-! ### The steps of a phase -/

/-- `ADDR_SET` at the start of a receive (R122). -/
theorem Leg.addressReceive (h : Ready .rAddr s) :
    ∃ t, Leg s t 0 [.addrSet s.bus s.a7 true] ∧ Ready .rCmd t ∧ t.rx = s.rx ∧ t.oracle = s.oracle := by
  obtain ⟨claimed, settled⟩ := (s.knownIdle_iff _).1 h.idle
  have next := (step_rAddr h.line h.st).trans (if_pos h.idle)
  exact ⟨_, Leg.of_step h.line (h.running (by decide)) next rfl rfl,
    ⟨h.line, rfl, State.knownIdle_of_setPort (s := s) rfl rfl claimed settled⟩, rfl, rfl⟩

/-- The kind of the command in a phase of a receive, as the expansion writes it. -/
abbrev receiveExpansion (n i : Nat) : CmdKind :=
  expansionKind .singleReceive .burstReceiveStart .burstReceiveContinue .burstReceiveFinish n i

/-- The command of a receive's phase is issued (R124), and its wait is `R_POLL`. -/
theorem step_rCmd_issues (h : Ready .rCmd s) (lt : s.idx < s.len) (fits : s.len ≤ s.cfg.rxMax) :
    step s = .next (s.issue (receiveExpansion s.len s.idx)) ∧ waitAfter (receiveExpansion s.len s.idx) = .rPoll := by
  have kind := recvKind_expansion lt fits
  exact ⟨(step_rCmd h.line h.st kind).trans (if_pos h.idle), recvKind_waitState kind⟩

/-- The command of a receive's phase and its wait, up to the idle answer (R124, R125). -/
theorem Leg.receiveCommand {k : Nat} {later : List Bool} (h : Ready .rCmd s) (lt : s.idx < s.len)
    (fits : s.len ≤ s.cfg.rxMax) (polls : s.oracle.polls = waitAnswers k ++ later)
    (below : ∀ n, s.cfg.pollLimit.samples = some n → k < n) :
    ∃ t, Leg s t 0 (.cmd s.bus (receiveExpansion s.len s.idx) :: waitEvents s.bus k) ∧ Ready .rGet t ∧ t.rx = s.rx ∧
      t.oracle.polls = later ∧ t.oracle.gets = s.oracle.gets := by
  obtain ⟨claimed, -⟩ := (s.knownIdle_iff _).1 h.idle
  obtain ⟨issued, wait⟩ := step_rCmd_issues h lt fits
  have leg := Leg.waiting h.line (h.running (by decide)) issued (.inr wait) (polls_wait polls) below
  set w := s.waiting (receiveExpansion s.len s.idx) k (false :: later)
  have wst : w.st = .rPoll := wait
  have sampled : step w = .next w.sample := step_poll h.line (.inr wst)
  rw [State.sample_to_get rfl wst] at sampled
  have whole := leg.trans (Leg.of_step (n := 0) h.line (by simp [wst]) sampled rfl rfl)
  rw [waitEvents_eq, ← List.cons_append]
  exact ⟨_, whole,
    ⟨h.line, rfl,
      State.knownIdle_of_setPort (s := w) (p := { w.port w.bus with unsettled := false }) rfl rfl claimed rfl⟩,
    rfl, rfl, rfl⟩

/-- `GET` delivers the byte and ends the phase (R126, R127). -/
theorem Leg.fetch {v : Byte} {more : List Byte} (h : Ready .rGet s) (lt : s.idx < s.len)
    (gets : s.oracle.gets = v :: more) :
    ∃ t, Leg s t 1 [.get s.bus v] ∧ t.knownIdle t.bus = true ∧ (s.idx + 1 ≠ s.len → t.st = .rCmd) ∧
      (s.idx + 1 = s.len → Completed .ok 0 t) ∧ t.rx = s.rx.write s.idx v ∧ t.oracle.polls = s.oracle.polls ∧
      t.oracle.gets = more := by
  have fetched := (step_rGet h.line h.st).trans ((if_pos h.idle).trans (if_pos lt))
  have answer := State.getAnswer_cons gets
  have rest : s.oracle.gets.tail = more := by rw [gets]; rfl
  by_cases last : s.idx + 1 = s.len
  · rw [State.fetchByte_last_phase last, answer] at fetched
    exact ⟨_, Leg.of_step h.line (h.running (by decide)) fetched rfl rfl, h.idle, fun more => absurd last more,
      fun _ => ⟨rfl, rfl, rfl, rfl⟩, rfl, rfl, rest⟩
  · rw [State.fetchByte_next_phase last, answer] at fetched
    exact ⟨_, Leg.of_step h.line (h.running (by decide)) fetched rfl rfl, h.idle, fun _ => rfl,
      fun last' => absurd last' last, rfl, rfl, rest⟩

/-- One byte phase of a receive: the command, the wait, `GET`. -/
theorem Leg.receivePhase {v : Byte} {k : Nat} {later : List Bool} {more : List Byte} (h : Ready .rCmd s)
    (lt : s.idx < s.len) (fits : s.len ≤ s.cfg.rxMax) (polls : s.oracle.polls = waitAnswers k ++ later)
    (gets : s.oracle.gets = v :: more) (below : ∀ n, s.cfg.pollLimit.samples = some n → k < n) :
    ∃ t, Leg s t 1 (receivePhases s.bus s.len s.idx [(v, k)]) ∧ t.knownIdle t.bus = true ∧
      (s.idx + 1 ≠ s.len → t.st = .rCmd) ∧ (s.idx + 1 = s.len → Completed .ok 0 t) ∧ t.rx = s.rx.write s.idx v ∧
      t.oracle.polls = later ∧ t.oracle.gets = more := by
  obtain ⟨u, command, ready, rx, polls', gets'⟩ := Leg.receiveCommand (k := k) (later := later) h lt fits polls below
  have idx : u.idx = s.idx := command.idx
  obtain ⟨t, fetch, idle, next, last, rx', polls'', gets''⟩ := Leg.fetch (v := v) (more := more) ready
    (by rw [idx, command.len]; exact lt) (gets'.trans gets)
  rw [command.bus] at fetch
  rw [idx, command.len] at next last
  have leg := command.trans fetch
  rw [show receivePhases s.bus s.len s.idx [(v, k)] =
    (.cmd s.bus (receiveExpansion s.len s.idx) :: waitEvents s.bus k) ++ [.get s.bus v] by simp [receivePhases]]
  exact ⟨t, leg, idle, next, last, by rw [rx', idx, rx], polls''.trans polls', gets''⟩

/-- The byte phases of a receive up to one that is not the last, by induction on them. -/
theorem Leg.receiveEachPhase (phases : List (Byte × Nat)) {later : List Bool} {more : List Byte} (h : Ready .rCmd s)
    (lt : s.idx + phases.length < s.len) (fits : s.len ≤ s.cfg.rxMax)
    (polls : s.oracle.polls = phases.flatMap (fun p => waitAnswers p.2) ++ later)
    (gets : s.oracle.gets = phases.map Prod.fst ++ more)
    (below : ∀ p ∈ phases, ∀ n, s.cfg.pollLimit.samples = some n → p.2 < n) :
    ∃ t, Leg s t phases.length (receivePhases s.bus s.len s.idx phases) ∧ Ready .rCmd t ∧
      t.rx = s.rx.writeFrom s.idx (phases.map Prod.fst) ∧ t.oracle.polls = later ∧ t.oracle.gets = more := by
  induction phases generalizing s with
  | nil => exact ⟨s, .refl s, h, rfl, polls, gets⟩
  | cons p rest ih =>
    obtain ⟨v, k⟩ := p
    rw [List.length_cons] at lt
    rw [List.flatMap_cons, List.append_assoc] at polls
    obtain ⟨u, leg, idle, next, -, rx, polls', gets'⟩ := Leg.receivePhase (v := v) (k := k) h (by omega) fits polls gets
      (below _ List.mem_cons_self)
    have ready : Ready .rCmd u := ⟨leg.resetLine.trans h.line, next (by omega), idle⟩
    obtain ⟨t, legs, ready', rx', later', more'⟩ := ih ready (by rw [leg.idx, leg.len]; omega)
      (by rw [leg.len, leg.cfg]; exact fits) polls' gets' (fun p hp => leg.cfg ▸ below p (List.mem_cons_of_mem _ hp))
    rw [leg.bus, leg.len, leg.idx] at legs
    have all := leg.trans legs
    rw [← receivePhases_cons, Nat.add_comm 1] at all
    rw [rx, leg.idx] at rx'
    exact ⟨t, all, ready', rx', later', more'⟩

/-! ### The acceptance -/

/-- The state a valid `RECEIVE` leads to (R121). -/
def State.receiveAccepted (s : State) (b : BusIndex) (a : BitVec 8) (n : Nat) : State :=
  s.consumeRequest.latch .receive b a n .rAddr

/-- A presented `RECEIVE` of 1 to `RX_MAX` bytes is accepted in one step (R71, R121). -/
theorem step_accepts_receive {b : BusIndex} {a : BitVec 8} {n : Nat} {others : List Request}
    (line : s.resetLine = false) (st : s.st = .idle) (claimed : s.claimed b = true) (valid : 1 ≤ n)
    (fits : n ≤ s.cfg.rxMax) (host : s.host = .transfer (headerWord s.cfg.widths true b a n) [] :: others) :
    step s = .next (s.receiveAccepted b a n) := by
  have decoded : decode s.cfg.widths (.request (.transfer (headerWord s.cfg.widths true b a n) [])) =
      .ok (.receive b a n) := decodeEncodeRoundTrip s.cfg.widths (.receive b a n) (decide_eq_true fits)
  exact (step_request_ok line st host decoded).trans (exec_receive_accepts st claimed fits valid)

/-- From the acceptance of a receive to the start of a phase: `ADDR_SET` and the phases before, all ended idle. -/
theorem Leg.receiveUpTo (phases : List (Byte × Nat)) {b : BusIndex} {a : BitVec 8} {n : Nat} {later : List Bool}
    {more : List Byte} (line : s.resetLine = false) (idle : s.knownIdle b = true) (lt : phases.length < n)
    (fits : n ≤ s.cfg.rxMax) (polls : s.oracle.polls = phases.flatMap (fun p => waitAnswers p.2) ++ later)
    (gets : s.oracle.gets = phases.map Prod.fst ++ more)
    (below : ∀ p ∈ phases, ∀ n, s.cfg.pollLimit.samples = some n → p.2 < n) :
    ∃ t, Leg (s.receiveAccepted b a n) t phases.length
        (.addrSet b (targetAddress a) true :: receivePhases b n 0 phases) ∧
      Ready .rCmd t ∧ t.idx = phases.length ∧ t.rx = s.rx.writeFrom 0 (phases.map Prod.fst) ∧ t.oracle.polls = later ∧
      t.oracle.gets = more := by
  obtain ⟨u, address, ready, rx, oracle⟩ := Leg.addressReceive (s := s.receiveAccepted b a n) ⟨line, rfl, idle⟩
  have idx : u.idx = 0 := address.idx
  have len : u.len = n := address.len
  obtain ⟨t, legs, ready', rx', polls', gets'⟩ := Leg.receiveEachPhase phases ready (later := later) (more := more)
    (by rw [idx, len]; omega) (by rw [len, address.cfg]; exact fits) (by rw [oracle]; exact polls)
    (by rw [oracle]; exact gets) (address.cfg ▸ below)
  rw [address.bus, len, idx] at legs
  have leg := address.trans legs
  rw [Nat.zero_add] at leg
  exact ⟨t, leg, ready', leg.idx.trans (Nat.zero_add _), by rw [rx', rx, idx]; rfl, polls', gets'⟩

/-- The storage after the bytes of a receive were delivered from cell 0 on (R51, R129). -/
theorem Memory.read_delivered (m : Memory) (bytes : List Byte) :
    (∀ i, i < bytes.length → (m.writeFrom 0 bytes).read i = bytes[i]?) ∧
      ∀ i, bytes.length ≤ i → (m.writeFrom 0 bytes).read i = m.read i := by
  constructor <;> intro i hi
  · rw [Memory.read_writeFrom, if_pos (by omega), Nat.sub_zero]
  · rw [Memory.read_writeFrom, if_neg (by omega)]

/-- Settles O52: the acceptance, `ADDR_SET`, the phases before the last, the last phase. -/
theorem receiveHasItsExpansion : Obligations.ReceiveHasItsExpansion := by
  intro s b a phases others later more line st idle one fits host polls gets below
  obtain ⟨init, ⟨v, k⟩, rfl⟩ : ∃ init last, phases = init ++ [last] :=
    (List.eq_nil_or_concat' phases).resolve_left fun e => by rw [e] at one; cases one
  obtain ⟨n, count⟩ : ∃ n, (init ++ [(v, k)]).length = n := ⟨_, rfl⟩
  have size : n = init.length + 1 := by rw [← count]; simp
  rw [count] at one fits host ⊢
  have accept := step_accepts_receive line st ((s.knownIdle_iff b).1 idle).1 one fits host
  rw [List.flatMap_append, List.append_assoc] at polls
  rw [List.map_append, List.append_assoc] at gets
  obtain ⟨u, before, ready, idx, rx, polls', gets'⟩ := Leg.receiveUpTo init (a := a) line idle (by omega) fits polls
    gets (fun p hp => below p (List.mem_append_left _ hp))
  have len : u.len = n := before.len
  have bus : u.bus = b := before.bus
  obtain ⟨t, phase, settled, -, done, rx', later', more'⟩ := Leg.receivePhase (v := v) (k := k) (later := later)
    (more := more) ready (by rw [idx, len]; omega) (by rw [len, before.cfg]; exact fits) (by rw [polls']; simp)
    (by rw [gets']; rfl) (before.cfg ▸ below (v, k) (by simp))
  have completed := done (by rw [idx, len, size])
  rw [bus, len, idx] at phase
  have leg := before.trans phase
  have events : (Event.addrSet b (targetAddress a) true :: receivePhases b n 0 init) ++
      receivePhases b n init.length [(v, k)] =
      .addrSet b (targetAddress a) true :: receivePhases b n 0 (init ++ [(v, k)]) := by
    rw [List.cons_append, receivePhases_append, Nat.zero_add]
  rw [events] at leg
  have storage : t.rx = s.rx.writeFrom 0 ((init ++ [(v, k)]).map Prod.fst) := by
    rw [rx', idx, rx, List.map_append, Memory.writeFrom_append, List.length_map, Nat.zero_add]; rfl
  obtain ⟨written, kept⟩ := s.rx.read_delivered ((init ++ [(v, k)]).map Prod.fst)
  rw [List.length_map, count] at written kept
  refine ⟨t, run_accepted accept leg ?_, leg.trace, fun i hi => by rw [storage]; exact written i hi,
    fun i hi => by rw [storage]; exact kept i hi, completed.st, completed.done, completed.status,
    completed.remaining, completed.resultWord, ?_, leg.idx.trans ?_, leg.host.trans ?_, later', more', leg.buf,
    leg.claims, leg.ports⟩
  · rw [List.length_cons, receivePhases_length]; omega
  · rw [leg.bus] at settled; exact settled
  · exact (Nat.zero_add _).trans size.symm
  · show s.host.tail = others
    rw [host]; rfl

/-- Settles O54: the acceptance, `ADDR_SET`, the phases before, then the command whose wait sees its limit. -/
theorem receiveTimeoutHasItsPrefix : Obligations.ReceiveTimeoutHasItsPrefix := by
  intro s b a n phases others later more limit line st idle lt fits samples host polls gets below
  obtain ⟨m, rfl⟩ := Nat.exists_eq_succ_of_ne_zero (pollLimit_samples_pos samples).ne'
  have accept := step_accepts_receive line st ((s.knownIdle_iff b).1 idle).1 (by omega) fits host
  rw [List.append_assoc] at polls
  have within (p) (hp : p ∈ phases) (n) (hn : s.cfg.pollLimit.samples = some n) : p.2 < n := by
    rw [samples] at hn; cases hn; exact below p hp
  obtain ⟨w, leg, ready, idx, rx, polls', gets'⟩ := Leg.receiveUpTo phases (a := a) line idle lt fits polls gets within
  have len : w.len = n := leg.len
  have bus : w.bus = b := leg.bus
  obtain ⟨issued, wait⟩ := step_rCmd_issues ready (by omega) (by rw [len, leg.cfg]; exact fits)
  obtain ⟨t, ending, completed, unknown, rx', later', more'⟩ := Leg.timeout (m := m) (later := later) ready.line
    (ready.running (by decide)) issued (.inr wait) polls' (by rw [leg.cfg]; exact samples)
  have whole := leg.trans ending
  obtain ⟨written, kept⟩ := s.rx.read_delivered (phases.map Prod.fst)
  rw [List.length_map, ← rx, ← rx'] at written kept
  rw [bus] at unknown
  refine ⟨t, run_accepted accept whole ?_, ?_, written, kept, completed.st, completed.done, completed.status, ?_,
    (by rw [whole.idx]; exact Nat.zero_add _), unknown, later', more'.trans gets'⟩
  · simp [receivePhases_length]; omega
  · rw [whole.trace, bus, len, idx]
    simp [State.receiveAccepted]
  · rw [completed.remaining, len, idx]

end Sys2Proof.Machine
end

section
/-! PROOFS. With a finite `POLL_LIMIT` every accepted transaction completes (70 R204): a bound on the steps left that
every step lowers, whatever the controller answers. -/

namespace Sys2Proof.Machine

open Safety

variable {s t : State} {limit : Nat}

/-- The most steps the running byte phase, and the address before it, can still take when a wait takes `limit`
samples. -/
def State.phaseStepsLeft (s : State) (limit : Nat) : Nat :=
  match s.st with
  | .idle => 0
  | .sAddr | .rAddr => 3 + limit
  | .sPut | .rCmd => 2 + limit
  | .sCmd => 1 + limit
  | .sPoll => limit - s.pcnt
  | .rPoll => 1 + (limit - s.pcnt)
  | .rGet => 1

/-- The most steps a transaction can still take: its running phase, and `2 + limit` steps for each phase after it. -/
def State.stepsLeft (s : State) (limit : Nat) : Nat :=
  s.phaseStepsLeft limit + (s.len - (s.idx + 1)) * (2 + limit)

/-- A step within a phase takes one of the phase's steps. -/
theorem State.stepsLeft_lt_of_same_phase (len : t.len = s.len) (idx : t.idx = s.idx)
    (phase : t.phaseStepsLeft limit < s.phaseStepsLeft limit) : t.stepsLeft limit < s.stepsLeft limit := by
  rw [State.stepsLeft, State.stepsLeft, len, idx]
  omega

/-- The last step of a phase that is not the last leaves the phases after it. -/
theorem State.stepsLeft_lt_of_next_phase (more : s.idx + 1 < s.len) (len : t.len = s.len) (idx : t.idx = s.idx + 1)
    (phase : t.phaseStepsLeft limit = 2 + limit) (left : 0 < s.phaseStepsLeft limit) :
    t.stepsLeft limit < s.stepsLeft limit := by
  obtain ⟨after, h⟩ : ∃ after, s.len - (s.idx + 1) = after + 1 := ⟨s.len - (s.idx + 1) - 1, by omega⟩
  have h' : s.len - (s.idx + 1 + 1) = after := by omega
  rw [State.stepsLeft, State.stepsLeft, len, idx, phase, h, h', Nat.succ_mul]
  omega

theorem StepForm.stepsLeft_lt (hI : Inv s) (samples : s.cfg.pollLimit.samples = some limit) (hf : StepForm s t)
    (hs : s.st ≠ .idle) (ht : t.st ≠ .idle) : t.stepsLeft limit < s.stepsLeft limit := by
  have wait (h : s.st = .sPoll ∨ s.st = .rPoll) : s.pcnt < limit := hI.waitBound h limit samples
  obtain ⟨-, lt⟩ := hI.phase hs
  cases hf
  case quiet st _ _ | claimGranted st _ _ | claimExhausted st _ _ | sendInvalid st _ _ _ | sendAccepted st _ _ _ _
    | receiveInvalid st _ | receiveAccepted st _ _ _ _ => exact absurd st hs
  case timeout next | sendEnds next | receiveEnds next => subst next; exact absurd rfl ht
  case addressSend st _ next | addressReceive st _ next | put st _ _ next =>
    subst next
    refine State.stepsLeft_lt_of_same_phase rfl rfl ?_
    simp only [State.phaseStepsLeft, st]; omega
  case commandSend st kind _ next =>
    subst next
    refine State.stepsLeft_lt_of_same_phase rfl rfl ?_
    simp only [State.phaseStepsLeft, st, State.issue, sendKind_waitState kind]; omega
  case commandReceive st kind _ next =>
    subst next
    refine State.stepsLeft_lt_of_same_phase rfl rfl ?_
    simp only [State.phaseStepsLeft, st, State.issue, recvKind_waitState kind]; omega
  case busyCounted st _ _ next =>
    subst next
    have below := wait st
    refine State.stepsLeft_lt_of_same_phase rfl rfl ?_
    rcases st with st | st <;> simp only [State.phaseStepsLeft, st] <;> omega
  case receiveReady st _ next =>
    subst next
    have below := wait (.inr st)
    refine State.stepsLeft_lt_of_same_phase rfl rfl ?_
    simp only [State.phaseStepsLeft, st]; omega
  case sendPhaseEnds st _ more next =>
    subst next
    have below := wait (.inl st)
    refine State.stepsLeft_lt_of_next_phase (by omega) rfl rfl rfl ?_
    simp only [State.phaseStepsLeft, st]; omega
  case byteDelivered st _ more next =>
    subst next
    refine State.stepsLeft_lt_of_next_phase more rfl rfl rfl ?_
    simp only [State.phaseStepsLeft, st]; omega

/-- While a transaction runs at least one step is left. -/
theorem State.stepsLeft_pos (hI : Inv s) (samples : s.cfg.pollLimit.samples = some limit) (hs : s.st ≠ .idle) :
    0 < s.stepsLeft limit := by
  refine Nat.add_pos_left ?_ _
  cases st : s.st with
  | idle => exact absurd st hs
  | sPoll =>
    have below := hI.waitBound (.inl st) limit samples
    simp only [State.phaseStepsLeft, st]; omega
  | _ => simp only [State.phaseStepsLeft, st]; omega

/-- A step that ends a transaction completes it, with success or a timeout (R165, R166). -/
theorem StepForm.completes (hf : StepForm s t) (hs : s.st ≠ .idle) (ht : t.st = .idle) :
    t.done = true ∧ (t.status = .ok ∨ t.status = .busTimeout) := by
  cases hf
  case timeout next => subst next; exact ⟨rfl, .inr rfl⟩
  case sendEnds next | receiveEnds next => subst next; exact ⟨rfl, .inl rfl⟩
  case busyCounted next => subst next; exact absurd ht hs
  case commandSend kind _ next => subst next; simp [State.issue, sendKind_waitState kind] at ht
  case commandReceive kind _ next => subst next; simp [State.issue, recvKind_waitState kind] at ht
  case quiet st _ _ | claimGranted st _ _ | claimExhausted st _ _ | sendInvalid st _ _ _ | sendAccepted st _ _ _ _
    | receiveInvalid st _ | receiveAccepted st _ _ _ _ => exact absurd st hs
  all_goals subst t; cases ht

/-- From any state of a transaction, by induction on the steps left. -/
theorem run_completes (hI : Inv s) (line : s.resetLine = false) (hs : s.st ≠ .idle)
    (start : s.st = .sAddr ∨ s.st = .rAddr → s.knownIdle s.bus = true)
    (samples : s.cfg.pollLimit.samples = some limit) :
    ∃ k t, k ≤ s.stepsLeft limit ∧ run k s = .next t ∧ t.st = .idle ∧ t.done = true ∧
      (t.status = .ok ∨ t.status = .busTimeout) ∧ t.trace.length = s.trace.length + k := by
  induction left : s.stepsLeft limit using Nat.strong_induction_on generalizing s with
  | _ steps ih =>
    subst left
    obtain ⟨u, next⟩ : ∃ u, step s = .next u := by
      rcases step_running_outcomes hI line hs with next | ⟨-, first, unknown⟩
      · exact next
      · rw [start first] at unknown; cases unknown
    have hf := step_form line next
    obtain ⟨e, -, event⟩ := (traceGrowsByOneEvent s u line next).1 hs
    have grown : u.trace.length = s.trace.length + 1 := by rw [event]; simp
    by_cases hu : u.st = .idle
    · obtain ⟨done, status⟩ := hf.completes hs hu
      exact ⟨1, u, State.stepsLeft_pos hI samples hs, run_succ 0 next, hu, done, status, grown⟩
    · have lower := hf.stepsLeft_lt hI samples hs hu
      obtain ⟨k, t, le, ran, st, done, status, length⟩ := ih _ lower (StepForm.keeps_inv hI hf)
        (hf.keeps_resetLine.trans line) hu (fun first => absurd first (hf.sameTransaction hs hu).started)
        (by rw [hf.keeps_cfg]; exact samples) rfl
      exact ⟨k + 1, t, by omega, (run_succ k next).trans ran, st, done, status, by omega⟩

/-- Settles O55: at the address every phase is still to come. -/
theorem transactionCompletesWithinBound : Obligations.TransactionCompletesWithinBound := by
  intro s limit hI line st idle samples
  have running : s.st ≠ .idle := by rcases st with st | st <;> simp [st]
  obtain ⟨k, t, le, h⟩ := run_completes hI line running (fun _ => idle) samples
  refine ⟨k, t, ?_, h⟩
  obtain ⟨phases, hp⟩ : ∃ phases, s.len = phases + 1 := ⟨s.len - 1, by have := (hI.phase running).1; omega⟩
  have all : s.stepsLeft limit = 1 + 2 * s.len + s.len * limit := by
    have address : s.phaseStepsLeft limit = 3 + limit := by
      rcases st with st | st <;> simp only [State.phaseStepsLeft, st]
    rw [State.stepsLeft, address, hI.firstPhase st, hp, Nat.zero_add, Nat.add_sub_cancel]
    ring
  exact all ▸ le

end Sys2Proof.Machine
end
